-- ==== Sys2Proof/Word.lean ====
section
/-! DEFINITION. The word types of the block (00_scope.md R2, widths of section 2). -/

namespace Sys2Proof

/-- 8-bit fields: OP, IDX, AUX, RES, `pe[i].max`, `pe[i].count`. -/
abbrev Byte := BitVec 8

/-- 16-bit registers: `R.sync1`, `R.sync2`, `R.driftError` (`W_SYNC`, `W_ERR`). -/
abbrev Word16 := BitVec 16

/-- 32-bit registers and operands: `R.seconds`, `pe[i].delay`, the DATA field (`W_SEC`, `W_DELAY`, `W_ELAPSED`). -/
abbrev Word32 := BitVec 32

/-- 64-bit registers and the command word: `R.millis`, `pe[i].last`, `w` (`W_MS`, R80). -/
abbrev Word64 := BitVec 64

/-- The 60-bit telegram buffer; bit `k` is `buf[k]` (R1, R33, R85). -/
abbrev Telegram := BitVec 60

end Sys2Proof
end

