-- ==== Sys2Proof/Config.lean ====
section
/-! DEFINITION. The parameters of 00_scope.md section 2 and the free values (constants with no body). -/

namespace Sys2Proof.Config

/-- `SYNC_PARK`: the `sync1` value at which fast ticks stop advancing `millis` (R100). -/
def syncPark : Nat := 999

/-- `ERR_NOMINAL`: subtracted from `sync2` to form the drift error (R101). -/
def errNominal : Word16 := 1000#16

/-- Milliseconds per second, the factor of the re-anchoring `R.seconds * 1000` (R101, R102, R105). -/
def msPerSecond : Word64 := 1000#64

/-- `FRAME_BITS`: bits a frame needs to be decoded (R175). -/
def frameBits : Nat := 60

/-- The saturation value of the cursor, "more than 60" (R32, R176, decision D20). -/
def cursorMax : Nat := 61

/-- `T_BOUNCE`: edges of at most this duration are ignored (R170). -/
def tBounce : Nat := 30

/-- `ZERO_LO`: lower end of the short-zero band, inclusive (R170). -/
def zeroLo : Nat := 50

/-- `ZERO_HI`: upper end of the short-zero band, inclusive (R170). -/
def zeroHi : Nat := 149

/-- `ONE_LO`: lower end of the short-one band, inclusive (R170). -/
def oneLo : Nat := 150

/-- `ONE_HI`: upper end of the short-one band, inclusive (R170). -/
def oneHi : Nat := 300

/-- `T_GAP`: a duration above this is a frame gap (R170). -/
def tGap : Nat := 1500

/-- `ACTIVE_LEVEL`: the comparator level counted as the active (low) pulse state, the bit 0 (R82). -/
def activeLevel : Bool := false

/-- `N_PE` after `State.reset`: the default 8 of the parameter's range 1 to 256 (decision D12).
A state carries its own number of periodic-event entries (`State.nPE`); see log entry 3. -/
def nPE : Nat := 8

/-- The upper end of the range of `N_PE` (decision D12). -/
def nPEMax : Nat := 256

/-- `P_CORR_MAX`: the max count the host writes into the correction entry (decision D17). -/
def pCorrMax : Byte := 1#8

/-- `P_CORR_DELAY_MS`: OPEN (90_conflicts.md C10), the delay the host writes into the correction
entry.  Free value, log entry 4; no rule of the block depends on it. -/
opaque pCorrDelayMs : Word32

/-- The draw `d` of R3, read only by R178: free value number `n`, log entry 1. -/
opaque freeDraw : Nat → Bool

/-- The arbiter's choice among agents that have events pending (R228): free value number `n`,
log entry 2. -/
opaque freeChoice : Nat → Nat

end Sys2Proof.Config
end

