-- ==== Sys2Proof/Syntax.lean ====
section
/-! DEFINITION. The commands and input events of the block: one constructor of `Instr` per row of
spec/opcode_table.json, with the opcode, format and issuing agent of 30_encoding.md R81 and R83. -/

namespace Sys2Proof

/-- The four agents that feed the block (R5). -/
inductive Agent where
  | fastTimer
  | preciseTimer
  | comparator
  | host
  deriving DecidableEq, Repr

/-- Every agent, in a fixed order that carries no priority (R228). -/
def Agent.all : List Agent := [.fastTimer, .preciseTimer, .comparator, .host]

/-- The five formats of R81. -/
inductive Format where
  /-- no operand -/
  | Z
  /-- data -/
  | D
  /-- index -/
  | I
  /-- edge -/
  | E
  /-- config -/
  | C
  deriving DecidableEq, Repr

/-- The 14 assigned opcodes (R83). -/
inductive Opcode where
  | fastTick | preciseTick | setTime | readTime | readDiag | corrCheck
  | dcfEdge | dcfOn | dcfOff | readDcf
  | peConfig | peOccurred | peReset | readPe
  deriving DecidableEq, Repr

/-- A command or input event with its assembled operands (R82). -/
inductive Instr where
  /-- FAST_TICK (R100) -/
  | fastTick
  /-- PRECISE_TICK (R101) -/
  | preciseTick
  /-- SET_TIME s (R102) -/
  | setTime (s : Word32)
  /-- READ_TIME (R103) -/
  | readTime
  /-- READ_DIAG (R104) -/
  | readDiag
  /-- CORR_CHECK i (R105) -/
  | corrCheck (i : Byte)
  /-- DCF_EDGE e, L (R171); `level` is the bit L: `false` = 0 = low = active -/
  | dcfEdge (e : Word32) (level : Bool)
  /-- DCF_ON (R184) -/
  | dcfOn
  /-- DCF_OFF (R185) -/
  | dcfOff
  /-- READ_DCF (R186) -/
  | readDcf
  /-- PE_CONFIG i, d, m (R141) -/
  | peConfig (i : Byte) (d : Word32) (m : Byte)
  /-- PE_OCCURRED i (R142) -/
  | peOccurred (i : Byte)
  /-- PE_RESET i (R143) -/
  | peReset (i : Byte)
  /-- READ_PE i (R144) -/
  | readPe (i : Byte)
  deriving DecidableEq, Repr

/-- The opcode of a command. -/
def Instr.opcode : Instr → Opcode
  | .fastTick => .fastTick
  | .preciseTick => .preciseTick
  | .setTime _ => .setTime
  | .readTime => .readTime
  | .readDiag => .readDiag
  | .corrCheck _ => .corrCheck
  | .dcfEdge _ _ => .dcfEdge
  | .dcfOn => .dcfOn
  | .dcfOff => .dcfOff
  | .readDcf => .readDcf
  | .peConfig _ _ _ => .peConfig
  | .peOccurred _ => .peOccurred
  | .peReset _ => .peReset
  | .readPe _ => .readPe

/-- The IDX operand, for the formats that have one (R81: formats I and C). -/
def Instr.index? : Instr → Option Byte
  | .fastTick => none
  | .preciseTick => none
  | .setTime _ => none
  | .readTime => none
  | .readDiag => none
  | .corrCheck i => some i
  | .dcfEdge _ _ => none
  | .dcfOn => none
  | .dcfOff => none
  | .readDcf => none
  | .peConfig i _ _ => some i
  | .peOccurred i => some i
  | .peReset i => some i
  | .readPe i => some i

end Sys2Proof
end

