-- ==== Sys2Proof/WellFormed.lean ====
section
/-! DEFINITION. The one check on a command beyond its field widths: an index names an existing
periodic-event entry (30_encoding.md R82, R84 condition 3). -/

namespace Sys2Proof

/-- `i` is legal on a block with `nPE` periodic-event entries (R84 condition 3). -/
def Instr.wellFormed (nPE : Nat) (i : Instr) : Bool :=
  match i.index? with
  | none => true
  | some k => decide (k.toNat < nPE)

end Sys2Proof
end

