-- ==== Sys2Proof/Decode.lean ====
section
/-! DEFINITION. The command encoding of 30_encoding.md: fields (R80), formats (R81), the opcode map
(R83), the total decoder with its named rejections (R84), and the encoder (R86). -/

namespace Sys2Proof

/-! ### The fields of a command word (R80) -/

/-- OP, `w[63:56]`. -/
def opField (w : Word64) : Byte := w.extractLsb' 56 8

/-- IDX, `w[55:48]`. -/
def idxField (w : Word64) : Byte := w.extractLsb' 48 8

/-- AUX, `w[47:40]`. -/
def auxField (w : Word64) : Byte := w.extractLsb' 40 8

/-- RES, `w[39:32]`. -/
def resField (w : Word64) : Byte := w.extractLsb' 32 8

/-- DATA, `w[31:0]`. -/
def dataField (w : Word64) : Word32 := w.extractLsb' 0 32

/-- The word with the five fields in the order of the hex form `0xOOIIAARRDDDDDDDD` (R80). -/
def packWord (op idx aux res : Byte) (data : Word32) : Word64 := op ++ idx ++ aux ++ res ++ data

/-! ### The opcode map (R83) -/

/-- The OP value of an opcode. -/
def Opcode.code : Opcode → Byte
  | .fastTick => 0x01#8
  | .preciseTick => 0x02#8
  | .setTime => 0x03#8
  | .readTime => 0x04#8
  | .readDiag => 0x05#8
  | .corrCheck => 0x06#8
  | .dcfEdge => 0x10#8
  | .dcfOn => 0x11#8
  | .dcfOff => 0x12#8
  | .readDcf => 0x13#8
  | .peConfig => 0x20#8
  | .peOccurred => 0x21#8
  | .peReset => 0x22#8
  | .readPe => 0x23#8

/-- The format of an opcode. -/
def Opcode.format : Opcode → Format
  | .fastTick => .Z
  | .preciseTick => .Z
  | .setTime => .D
  | .readTime => .Z
  | .readDiag => .Z
  | .corrCheck => .I
  | .dcfEdge => .E
  | .dcfOn => .Z
  | .dcfOff => .Z
  | .readDcf => .Z
  | .peConfig => .C
  | .peOccurred => .I
  | .peReset => .I
  | .readPe => .I

/-- The agent that issues an opcode (R83, R5).  The block never checks it (R229). -/
def Opcode.agent : Opcode → Agent
  | .fastTick => .fastTimer
  | .preciseTick => .preciseTimer
  | .dcfEdge => .comparator
  | .setTime => .host
  | .readTime => .host
  | .readDiag => .host
  | .corrCheck => .host
  | .dcfOn => .host
  | .dcfOff => .host
  | .readDcf => .host
  | .peConfig => .host
  | .peOccurred => .host
  | .peReset => .host
  | .readPe => .host

/-- The agent that issues a command (R5, R83). -/
def Instr.agent (i : Instr) : Agent := i.opcode.agent

/-- The 14 rows of R83, in its order. -/
def Opcode.all : List Opcode :=
  [.fastTick, .preciseTick, .setTime, .readTime, .readDiag, .corrCheck,
   .dcfEdge, .dcfOn, .dcfOff, .readDcf, .peConfig, .peOccurred, .peReset, .readPe]

/-- The opcode with the OP value `b`; none where `b` is unassigned (R83). -/
def opcodeOf (b : Byte) : Option Opcode := Opcode.all.find? (fun o => o.code == b)

/-! ### Decoding -/

/-- Every field the format marks 0 is zero, RES of every format and `AUX[7:1]` of format E among
them (R81, R84 condition 2). -/
def reservedZero (f : Format) (w : Word64) : Bool :=
  match f with
  | .Z => idxField w == 0 && auxField w == 0 && resField w == 0 && dataField w == 0
  | .D => idxField w == 0 && auxField w == 0 && resField w == 0
  | .I => auxField w == 0 && resField w == 0 && dataField w == 0
  | .E => idxField w == 0 && (auxField w).extractLsb' 1 7 == 0 && resField w == 0
  | .C => resField w == 0

/-- The comparator level `L = w[40]` of format E (R82). -/
def levelBit (w : Word64) : Bool := (auxField w).getLsbD 0

/-- Operand assembly: every operand is a field, zero-extended (R82). -/
def assembleOperands (o : Opcode) (w : Word64) : Instr :=
  match o with
  | .fastTick => .fastTick
  | .preciseTick => .preciseTick
  | .setTime => .setTime (dataField w)
  | .readTime => .readTime
  | .readDiag => .readDiag
  | .corrCheck => .corrCheck (idxField w)
  | .dcfEdge => .dcfEdge (dataField w) (levelBit w)
  | .dcfOn => .dcfOn
  | .dcfOff => .dcfOff
  | .readDcf => .readDcf
  | .peConfig => .peConfig (idxField w) (dataField w) (auxField w)
  | .peOccurred => .peOccurred (idxField w)
  | .peReset => .peReset (idxField w)
  | .readPe => .readPe (idxField w)

/-- Why a word is illegal: the three conditions of R84, in its order. -/
inductive DecodeError where
  | unassignedOp
  | reservedNonzero
  | indexOutOfRange
  deriving DecidableEq, Repr

/-- The total decoder of a block with `nPE` periodic-event entries: a command, or the reason the
word is illegal (R84). -/
def decode (nPE : Nat) (w : Word64) : Except DecodeError Instr :=
  match opcodeOf (opField w) with
  | none => .error .unassignedOp
  | some o =>
    if reservedZero o.format w then
      if (assembleOperands o w).wellFormed nPE then .ok (assembleOperands o w)
      else .error .indexOutOfRange
    else .error .reservedNonzero

/-! ### Encoding -/

/-- The word of a command (R86). -/
def encode (i : Instr) : Word64 :=
  match i with
  | .fastTick => packWord 0x01#8 0#8 0#8 0#8 0#32
  | .preciseTick => packWord 0x02#8 0#8 0#8 0#8 0#32
  | .setTime s => packWord 0x03#8 0#8 0#8 0#8 s
  | .readTime => packWord 0x04#8 0#8 0#8 0#8 0#32
  | .readDiag => packWord 0x05#8 0#8 0#8 0#8 0#32
  | .corrCheck i => packWord 0x06#8 i 0#8 0#8 0#32
  | .dcfEdge e level => packWord 0x10#8 0#8 ((BitVec.ofBool level).setWidth 8) 0#8 e
  | .dcfOn => packWord 0x11#8 0#8 0#8 0#8 0#32
  | .dcfOff => packWord 0x12#8 0#8 0#8 0#8 0#32
  | .readDcf => packWord 0x13#8 0#8 0#8 0#8 0#32
  | .peConfig i d m => packWord 0x20#8 i m 0#8 d
  | .peOccurred i => packWord 0x21#8 i 0#8 0#8 0#32
  | .peReset i => packWord 0x22#8 i 0#8 0#8 0#32
  | .readPe i => packWord 0x23#8 i 0#8 0#8 0#32

/-! ### The opcode table's view -/

/-- One row of spec/opcode_table.json: a word is of this row when `w &&& mask = pattern`. -/
structure TableRow where
  mnemonic : String
  pattern : Word64
  mask : Word64
  /-- formats I and C: also illegal when IDX is `N_PE` or more -/
  indexed : Bool
  deriving DecidableEq, Repr

/-- spec/opcode_table.json, row by row. -/
def opcodeTable : List TableRow :=
  [⟨"FAST_TICK", 0x0100000000000000#64, 0xFFFFFFFFFFFFFFFF#64, false⟩,
   ⟨"PRECISE_TICK", 0x0200000000000000#64, 0xFFFFFFFFFFFFFFFF#64, false⟩,
   ⟨"SET_TIME", 0x0300000000000000#64, 0xFFFFFFFF00000000#64, false⟩,
   ⟨"READ_TIME", 0x0400000000000000#64, 0xFFFFFFFFFFFFFFFF#64, false⟩,
   ⟨"READ_DIAG", 0x0500000000000000#64, 0xFFFFFFFFFFFFFFFF#64, false⟩,
   ⟨"CORR_CHECK", 0x0600000000000000#64, 0xFF00FFFFFFFFFFFF#64, true⟩,
   ⟨"DCF_EDGE", 0x1000000000000000#64, 0xFFFFFEFF00000000#64, false⟩] ++
  [⟨"DCF_ON", 0x1100000000000000#64, 0xFFFFFFFFFFFFFFFF#64, false⟩,
   ⟨"DCF_OFF", 0x1200000000000000#64, 0xFFFFFFFFFFFFFFFF#64, false⟩,
   ⟨"READ_DCF", 0x1300000000000000#64, 0xFFFFFFFFFFFFFFFF#64, false⟩,
   ⟨"PE_CONFIG", 0x2000000000000000#64, 0xFF0000FF00000000#64, true⟩,
   ⟨"PE_OCCURRED", 0x2100000000000000#64, 0xFF00FFFFFFFFFFFF#64, true⟩,
   ⟨"PE_RESET", 0x2200000000000000#64, 0xFF00FFFFFFFFFFFF#64, true⟩,
   ⟨"READ_PE", 0x2300000000000000#64, 0xFF00FFFFFFFFFFFF#64, true⟩]

/-- The row matches the word, mask and pattern. -/
def TableRow.hits (r : TableRow) (w : Word64) : Bool := w &&& r.mask == r.pattern

/-- The command word whose low `nbits` bits are those of `w`, every bit above zero. -/
def wordOfTable (nbits w : Nat) : Word64 := BitVec.ofNat 64 (w % 2 ^ nbits)

/-- The command the decoder reads from the word the opcode table numbers, on a block with the
default number of periodic-event entries. -/
def decodeTableWord (nbits w : Nat) : Option Instr :=
  match decode Config.nPE (wordOfTable nbits w) with
  | .ok i => some i
  | .error _ => none

end Sys2Proof
end

