-- ==== Sys2Proof/Machine/State.lean ====
section
/-! DEFINITION. The architectural state of 10_state.md as plain data, the output records of
30_encoding.md R85, the reasons a step can stop, and the state after reset (R250). -/

namespace Sys2Proof.Machine

/-- One periodic-event entry `pe[i]` (R26 to R29). -/
structure PeriodicEvent where
  /-- delay threshold in ms (R26) -/
  delay : Word32
  /-- max occurrence count, 0 = unbounded (R27) -/
  max : Byte
  /-- last-trigger timestamp, a value of `R.millis` (R28) -/
  last : Word64
  /-- trigger count so far (R29) -/
  count : Byte
  deriving DecidableEq, Repr

/-- A never configured entry: `{delay 0, max 0, last 0, count 0}` (R250). -/
def PeriodicEvent.zero : PeriodicEvent := { delay := 0, max := 0, last := 0, count := 0 }

/-- The input events that have arrived and are not yet taken (R34): one queue of command words per
agent, oldest first, because each agent's events keep their issue order (R228; log entry 10). -/
structure Pending where
  fastTimer : List Word64
  preciseTimer : List Word64
  comparator : List Word64
  host : List Word64
  deriving DecidableEq, Repr

/-- No event pending. -/
def Pending.empty : Pending := { fastTimer := [], preciseTimer := [], comparator := [], host := [] }

/-- The fault causes of R221, with the value each records. -/
inductive FaultCause where
  /-- `ILLEGAL(w)` (R223): the illegal word -/
  | illegal (w : Word64)
  /-- `CORR_UNDERFLOW` (R224) -/
  | corrUnderflow
  deriving DecidableEq, Repr

/-- The output records of R85. -/
inductive Record where
  /-- `ACK` -/
  | ack
  /-- `TIME(seconds, millis)` -/
  | time (seconds : Word32) (millis : Word64)
  /-- `DIAG(sync1, sync2, driftError)`; `driftError` is read as two's complement -/
  | diag (sync1 sync2 driftError : Word16)
  /-- `DCFSTAT(enabled, streaming, cursor, bits)` -/
  | dcfstat (enabled streaming : Bool) (cursor : BitVec 6) (bits : Telegram)
  /-- `PESTAT(delay, max, last, count)` -/
  | pestat (delay : Word32) (max : Byte) (last : Word64) (count : Byte)
  /-- `FIRED(b)` -/
  | fired (b : Bool)
  /-- `CORR(b)` -/
  | corr (b : Bool)
  /-- `BIT_OK(v)` -/
  | bitOk (v : Bool)
  /-- `BIT_FAIL` -/
  | bitFail
  /-- `FRAME_OK(minute, hour, day, month, year)` -/
  | frameOk (minute : BitVec 7) (hour day : BitVec 6) (month : BitVec 5) (year : BitVec 8)
  /-- `FRAME_PARITY_ERR(pm, ph, pd)` -/
  | frameParityErr (pm ph pd : Bool)
  /-- `FRAME_COUNT_ERR(n)` -/
  | frameCountErr (n : BitVec 6)
  /-- a fault record, `ILLEGAL(w)` or `CORR_UNDERFLOW` (R221) -/
  | fault (c : FaultCause)
  deriving DecidableEq, Repr

/-- The state of the block: the table of 10_state.md section 1 (R35: no register beside those), then
the output log and the free-value counter, which are the model's own (log entries 1, 2, 5), and the
reset input of R250 (log entry 9). -/
structure State where
  /-- trace position (R20) -/
  pc : Nat
  /-- `R.millis` (R21) -/
  millis : Word64
  /-- `R.seconds` (R22) -/
  seconds : Word32
  /-- `R.sync1` (R23) -/
  sync1 : Word16
  /-- `R.sync2` (R24) -/
  sync2 : Word16
  /-- `R.driftError`, two's complement (R25) -/
  driftError : Word16
  /-- `pe[0..N_PE-1]` (R26 to R29); the length of the list is `N_PE` -/
  pe : List PeriodicEvent
  /-- `R.enabled` (R30) -/
  enabled : Bool
  /-- `R.streaming` (R31) -/
  streaming : Bool
  /-- `R.cursor`, 0 to 61 (R32) -/
  cursor : Fin 62
  /-- `buf[0..59]`, bit `k` is `buf[k]` (R33) -/
  buf : Telegram
  /-- pending input events (R34) -/
  pending : Pending
  /-- the model's own: every output record emitted so far, oldest first (R3 `outs`, R221) -/
  outs : List Record
  /-- the model's own: how many free values have been used, the number of the next one -/
  freeIndex : Nat
  /-- the reset input (R250): asserted, and not yet taken -/
  resetAsserted : Bool
  deriving DecidableEq, Repr

/-- Why a step stops. -/
inductive Fault where
  /-- Raised by `step` when no event is pending and reset is not asserted.  Safe: the spec has no
  step without a command or event (R3), so the input trace is over (log entry 6). -/
  | noPendingEvent
  deriving DecidableEq, Repr

/-- Why a step has no meaning. -/
inductive Refusal where
  /-- Raised by `exec` for a command that has no meaning yet (none in this model).  Safe. -/
  | notModelled (mnemonic : String)
  deriving DecidableEq, Repr

/-- The state after reset of a block with `nPE` periodic-event entries (R250; log entries 3, 13). -/
def State.resetWith (nPE : Nat) : State :=
  { pc := 0
    millis := 0
    seconds := 0
    sync1 := 0
    sync2 := 0
    driftError := 0
    pe := List.replicate nPE PeriodicEvent.zero
    enabled := false
    streaming := false
    cursor := 0
    buf := 0
    pending := Pending.empty
    outs := []
    freeIndex := 0
    resetAsserted := false }

/-- The state after reset with the default `N_PE = 8` (R250, decisions D11 and D12). -/
def State.reset : State := State.resetWith Config.nPE

end Sys2Proof.Machine
end

