-- ==== Sys2Proof/Machine/Ops.lean ====
section
/-! DEFINITION. The named operations on the state that the meanings share: records, the trace
position, the fault operation, the clock, the periodic-event file, the telegram buffer, reset, and
the pending input events. -/

namespace Sys2Proof.Machine

/-! ### Trace position, records, completion and faults (R4, R20, R221) -/

/-- `pc <- pc + 1` (R20). -/
def State.advance (s : State) : State := { s with pc := s.pc + 1 }

/-- `emit X(args)`: append one record to `outs` (R4). -/
def State.emit (r : Record) (s : State) : State := { s with outs := s.outs ++ [r] }

/-- The command is done: only `pc <- pc + 1` is left (R20). -/
def State.done (s : State) : Host.Outcome State Fault Refusal := .next s.advance

/-- `raise E(info)` (R4, R221): the fault record is emitted and `pc` advances; nothing else changes,
and the next command runs normally, so a fault is a next state (log entry 8).  There is no return
(R220). -/
def State.raise (c : FaultCause) (s : State) : Host.Outcome State Fault Refusal :=
  (s.emit (.fault c)).done

/-! ### The clock (R101, R102, R105) -/

/-- `zext_64(v) * 1000`, exact at 64 bits (decision D7). -/
def anchorOf (v : Word32) : Word64 := v.setWidth 64 * Config.msPerSecond

/-- `R.seconds <- v; R.millis <- zext_64(v) * 1000`, the write that PRECISE_TICK, SET_TIME and
CORR_CHECK share (R101, R102, R105). -/
def State.setClock (v : Word32) (s : State) : State :=
  { s with seconds := v, millis := anchorOf v }

/-! ### The periodic-event file (R26 to R29) -/

/-- `N_PE` of this block. -/
def State.nPE (s : State) : Nat := s.pe.length

/-- `pe[i]`, where there is such an entry. -/
def State.entry? (i : Byte) (s : State) : Option PeriodicEvent := s.pe[i.toNat]?

/-- `pe[i] <- p`. -/
def State.setEntry (i : Byte) (p : PeriodicEvent) (s : State) : State :=
  { s with pe := s.pe.set i.toNat p }

/-- Run `k` on `pe[i]`.  An index of `N_PE` or more makes the command's word illegal, so it raises
`ILLEGAL(w)` (R84 condition 3, R223); a decoded command never takes that branch (log entry 11). -/
def withEntry (i : Byte) (c : Instr) (s : State)
    (k : PeriodicEvent → Host.Outcome State Fault Refusal) : Host.Outcome State Fault Refusal :=
  match s.entry? i with
  | some p => k p
  | none => s.raise (.illegal (encode c))

/-- Arming an entry from the current time: `last = now`, `count = 0` (R141, R143). -/
def PeriodicEvent.arm (now : Word64) (p : PeriodicEvent) : PeriodicEvent :=
  { p with last := now, count := 0 }

/-! ### The decoder's registers and buffer (R30 to R33) -/

/-- `buf[k] <- v` (R4). -/
def bufSet (b : Telegram) (k : Nat) (v : Bool) : Telegram :=
  if v then b ||| BitVec.twoPow 60 k else b &&& ~~~ (BitVec.twoPow 60 k)

/-- The cursor after one more pulse, saturating at 61 (R176). -/
def cursorNext (c : Fin 62) : Fin 62 :=
  ⟨min (c.val + 1) Config.cursorMax, Nat.lt_of_le_of_lt (Nat.min_le_right _ _) (by decide)⟩

/-- `R.streaming <- 0; R.cursor <- 0`: the move to idle of R175, R179, R184 and R185. -/
def State.goIdle (s : State) : State := { s with streaming := false, cursor := 0 }

/-- The cursor as the 6-bit field of a record (R85). -/
def State.cursorField (s : State) : BitVec 6 := BitVec.ofNat 6 s.cursor.val

/-! ### Free values (log entry 1) -/

/-- One free value has been used. -/
def State.useFree (s : State) : State := { s with freeIndex := s.freeIndex + 1 }

/-! ### Reset (R250) -/

/-- Reset taken: every register, flag, entry and the buffer at its reset value, every pending event
discarded, `pc = 0`, nothing emitted.  What the observer has already seen (`outs`) and the count of
used free values are the model's own and stay (log entries 5, 9). -/
def State.applyReset (s : State) : State :=
  { State.resetWith s.nPE with outs := s.outs, freeIndex := s.freeIndex }

/-- The outside world asserts the reset input (log entry 9). -/
def State.assertReset (s : State) : State := { s with resetAsserted := true }

/-! ### Pending input events (R34, R228) -/

/-- The queue of an agent, oldest event first. -/
def Pending.queue (p : Pending) (a : Agent) : List Word64 :=
  match a with
  | .fastTimer => p.fastTimer
  | .preciseTimer => p.preciseTimer
  | .comparator => p.comparator
  | .host => p.host

/-- The queues with agent `a`'s replaced by `q`. -/
def Pending.setQueue (p : Pending) (a : Agent) (q : List Word64) : Pending :=
  match a with
  | .fastTimer => { p with fastTimer := q }
  | .preciseTimer => { p with preciseTimer := q }
  | .comparator => { p with comparator := q }
  | .host => { p with host := q }

/-- The agents that have an event pending. -/
def Pending.ready (p : Pending) : List Agent := Agent.all.filter (fun a => !(p.queue a).isEmpty)

/-- The arbiter: with one agent ready, that one; with several, the one a free choice points at
(R228: the order between agents is free). -/
def arbitrate (choice : Nat) (ready : List Agent) : Option Agent :=
  match ready with
  | [] => none
  | [a] => some a
  | a :: b :: rest => (a :: b :: rest)[choice % (rest.length + 2)]?

/-- The agent whose oldest event the block takes next. -/
def State.nextAgent (s : State) : Option Agent :=
  arbitrate (Config.freeChoice s.freeIndex) s.pending.ready

/-- Agent `a`'s oldest event is consumed (R226); the arbiter has used one free value. -/
def State.takeEvent (a : Agent) (s : State) : State :=
  { s with pending := s.pending.setQueue a (s.pending.queue a).tail, freeIndex := s.freeIndex + 1 }

/-- An event arrives: agent `a` issues the command word `w` (R5, R34).  The block does not check
that the word is one of `a`'s own (R229). -/
def State.arrive (a : Agent) (w : Word64) (s : State) : State :=
  { s with pending := s.pending.setQueue a (s.pending.queue a ++ [w]) }

end Sys2Proof.Machine
end

