-- ==== Sys2Proof/Machine/Operands.lean ====
section
/-! DEFINITION. What the commands read as operands beside the fields of their word: the sampled
time (R82), the class of an edge duration (R170), the meaning of the level (R82) and the weighted
sums of the telegram (R181). -/

namespace Sys2Proof.Machine

/-- `now` of the periodic events: the block samples `R.millis` in the step (R82, decision D14). -/
def State.now (s : State) : Word64 := s.millis

/-- The five classes of an edge duration (R170). -/
inductive Band where
  | ignored
  | zero
  | one
  | gap
  | noise
  deriving DecidableEq, Repr

/-- `Band(e)` (R170).  The level plays no part (decision D19). -/
def band (e : Word32) : Band :=
  if e.toNat ≤ Config.tBounce then .ignored
  else if Config.zeroLo ≤ e.toNat ∧ e.toNat ≤ Config.zeroHi then .zero
  else if Config.oneLo ≤ e.toNat ∧ e.toNat ≤ Config.oneHi then .one
  else if Config.tGap < e.toNat then .gap
  else .noise

/-- The level is the active (low) pulse state (R82, R176). -/
def isActive (level : Bool) : Bool := level == Config.activeLevel

/-- The weighted sum of the bits from `lo` upward, one weight a bit (R181). -/
def wsum (b : Telegram) (lo : Nat) (weights : List Nat) : Nat :=
  match weights with
  | [] => 0
  | w :: ws => (b.getLsbD lo).toNat * w + wsum b (lo + 1) ws

/-- minute: bits 21 to 27 (R181). -/
def minuteOf (b : Telegram) : Nat := wsum b 21 [1, 2, 4, 8, 10, 20, 40]

/-- hour: bits 29 to 34 (R181). -/
def hourOf (b : Telegram) : Nat := wsum b 29 [1, 2, 4, 8, 10, 20]

/-- day: bits 36 to 41 (R181). -/
def dayOf (b : Telegram) : Nat := wsum b 36 [1, 2, 4, 8, 10, 20]

/-- month: bits 45 to 49 (R181). -/
def monthOf (b : Telegram) : Nat := wsum b 45 [1, 2, 4, 8, 10]

/-- year, an offset from 2000: bits 50 to 57 (R181). -/
def yearOf (b : Telegram) : Nat := wsum b 50 [1, 2, 4, 8, 10, 20, 40, 80]

end Sys2Proof.Machine
end

