-- ==== Sys2Proof/Machine/Flags.lean ====
section
/-! DEFINITION. The conditions the commands compute: `exhausted(i)` (R36), the occurrence condition
(R140) and the three parity checks (R182).  The stored flags are `R.enabled` and `R.streaming`. -/

namespace Sys2Proof.Machine

/-- `exhausted`: a maximum is set and reached (R36). -/
def PeriodicEvent.exhausted (p : PeriodicEvent) : Bool :=
  p.max != 0 && decide (p.max.toNat ≤ p.count.toNat)

/-- The window has elapsed: `now >= last + delay`, an exact integer sum (R140, decision D15). -/
def PeriodicEvent.elapsed (now : Word64) (p : PeriodicEvent) : Bool :=
  decide (p.last.toNat + p.delay.toNat ≤ now.toNat)

/-- How many of the `n` bits from `lo` upward are 1. -/
def bitSum (b : Telegram) (lo n : Nat) : Nat :=
  match n with
  | 0 => 0
  | n + 1 => (b.getLsbD lo).toNat + bitSum b (lo + 1) n

/-- Even parity: the bit `bit` equals the sum of the `n` bits from `lo` mod 2 (R182). -/
def parityOk (b : Telegram) (bit lo n : Nat) : Bool := (b.getLsbD bit).toNat == bitSum b lo n % 2

/-- `pm`: bit 28 over bits 21 to 27 (R182). -/
def minuteParity (b : Telegram) : Bool := parityOk b 28 21 7

/-- `ph`: bit 35 over bits 29 to 34 (R182). -/
def hourParity (b : Telegram) : Bool := parityOk b 35 29 6

/-- `pd`: bit 58 over bits 36 to 57, the weekday bits among them (R182). -/
def dateParity (b : Telegram) : Bool := parityOk b 58 36 22

/-- `valid`: all three parities pass (R182). -/
def frameValid (b : Telegram) : Bool := minuteParity b && hourParity b && dateParity b

end Sys2Proof.Machine
end

