-- ==== Sys2Proof/Machine/Dcf.lean ====
section
/-! DEFINITION. The DCF77 edge-to-bit decoder (42_dcf.md): DCF_EDGE, DCF_ON, DCF_OFF, READ_DCF. -/

namespace Sys2Proof.Machine

/-- `DecodeRecord(buf)` (R181 to R183): each sum fits its field. -/
def decodeRecord (b : Telegram) : Record :=
  if frameValid b then
    .frameOk (BitVec.ofNat 7 (minuteOf b)) (BitVec.ofNat 6 (hourOf b)) (BitVec.ofNat 6 (dayOf b))
      (BitVec.ofNat 5 (monthOf b)) (BitVec.ofNat 8 (yearOf b))
  else .frameParityErr (minuteParity b) (hourParity b) (dateParity b)

/-- A frame gap while idle: streaming starts with a cleared buffer (R174). -/
def startFrame (s : State) : State := { s with streaming := true, cursor := 0, buf := 0 }

/-- What a frame gap while streaming reports: the decode at exactly 60 bits, else the bit count
(R175). -/
def frameRecord (s : State) : Record :=
  if s.cursor.val = Config.frameBits then decodeRecord s.buf else .frameCountErr s.cursorField

/-- A frame gap while streaming ends the frame; `buf` is kept (R175). -/
def endFrame (s : State) : State := (s.emit (frameRecord s)).goIdle

/-- A short pulse with the active level while streaming takes the bit `v` (R176). -/
def takeBit (v : Bool) (s : State) : State :=
  ({ s with
      buf := if s.cursor.val < Config.frameBits then bufSet s.buf s.cursor.val v else s.buf
      cursor := cursorNext s.cursor } : State).emit (.bitOk v)

/-- A short pulse while streaming: with the active level it takes a bit (R176), with the inactive
level it only reports `BIT_FAIL` (R177). -/
def pulseStreaming (level v : Bool) (s : State) : State :=
  if isActive level then takeBit v s else s.emit .bitFail

/-- A short pulse while idle: `BIT_FAIL` when the draw is 1, nothing when it is 0 (R178).  The draw
is used up. -/
def pulseIdle (draw : Bool) (s : State) : State :=
  (if draw then s.emit .bitFail else s).useFree

/-- A short pulse of bit value `v` (R171, cases ZERO and ONE). -/
def pulse (draw level v : Bool) (s : State) : State :=
  if s.streaming then pulseStreaming level v s else pulseIdle draw s

/-- A noise edge: while streaming it reports `BIT_FAIL` and aborts the frame (R179), while idle it
has no effect (R180). -/
def noiseEdge (s : State) : State := if s.streaming then (s.emit .bitFail).goIdle else s

/-- The case analysis of R171 with the draw `d` of R3 as an argument. -/
def edgeEffect (draw : Bool) (e : Word32) (level : Bool) (s : State) : State :=
  if s.enabled then
    match band e with
    | .ignored => s
    | .gap => if s.streaming then endFrame s else startFrame s
    | .zero => pulse draw level false s
    | .one => pulse draw level true s
    | .noise => noiseEdge s
  else s

/-- DCF_EDGE (R171), with the next free value as its draw (log entry 1). -/
def execDcfEdge (e : Word32) (level : Bool) (s : State) : Host.Outcome State Fault Refusal :=
  (edgeEffect (Config.freeDraw s.freeIndex) e level s).done

/-- DCF_ON (R184): `buf` is kept. -/
def execDcfOn (s : State) : Host.Outcome State Fault Refusal :=
  (({ s.goIdle with enabled := true } : State).emit .ack).done

/-- DCF_OFF (R185): `buf` is kept. -/
def execDcfOff (s : State) : Host.Outcome State Fault Refusal :=
  (({ s.goIdle with enabled := false } : State).emit .ack).done

/-- READ_DCF (R186). -/
def execReadDcf (s : State) : Host.Outcome State Fault Refusal :=
  (s.emit (.dcfstat s.enabled s.streaming s.cursorField s.buf)).done

end Sys2Proof.Machine
end

