-- ==== Sys2Proof/Machine/Periodic.lean ====
section
/-! DEFINITION. The periodic-event timer (41_periodic.md): the occurrence function, PE_CONFIG,
PE_OCCURRED, PE_RESET, READ_PE. -/

namespace Sys2Proof.Machine

/-- The entry after it fires at `now`: `last = now`, and `count` one more if a maximum is set
(R140). -/
def PeriodicEvent.fire (now : Word64) (p : PeriodicEvent) : PeriodicEvent :=
  { p with last := now, count := if p.max = 0 then p.count else p.count + 1 }

/-- `Occ(p, now)` (R140), used by PE_OCCURRED and CORR_CHECK. -/
def occ (p : PeriodicEvent) (now : Word64) : Bool × PeriodicEvent :=
  if p.exhausted then (false, p)
  else if p.elapsed now then (true, p.fire now)
  else (false, p)

/-- PE_CONFIG (R141). -/
def execPeConfig (i : Byte) (d : Word32) (m : Byte) (s : State) :
    Host.Outcome State Fault Refusal :=
  withEntry i (.peConfig i d m) s fun p =>
    ((s.setEntry i (PeriodicEvent.arm s.now { p with delay := d, max := m })).emit .ack).done

/-- PE_OCCURRED (R142). -/
def execPeOccurred (i : Byte) (s : State) : Host.Outcome State Fault Refusal :=
  withEntry i (.peOccurred i) s fun p =>
    ((s.setEntry i (occ p s.now).2).emit (.fired (occ p s.now).1)).done

/-- PE_RESET (R143). -/
def execPeReset (i : Byte) (s : State) : Host.Outcome State Fault Refusal :=
  withEntry i (.peReset i) s fun p => ((s.setEntry i (p.arm s.now)).emit .ack).done

/-- READ_PE (R144). -/
def execReadPe (i : Byte) (s : State) : Host.Outcome State Fault Refusal :=
  withEntry i (.readPe i) s fun p => (s.emit (.pestat p.delay p.max p.last p.count)).done

end Sys2Proof.Machine
end

