-- ==== Sys2Proof/Machine/Rtc.lean ====
section
/-! DEFINITION. The RTC dual-timer synchronizer (40_rtc.md): FAST_TICK, PRECISE_TICK, SET_TIME,
READ_TIME, READ_DIAG, CORR_CHECK. -/

namespace Sys2Proof.Machine

/-- The arbitration of R100: below the park, `millis` and `sync1` both advance by one. -/
def State.countMilli (s : State) : State :=
  if s.sync1.toNat < Config.syncPark then { s with millis := s.millis + 1, sync1 := s.sync1 + 1 }
  else s

/-- `R.sync2 <- wrap_16(R.sync2 + 1)` (R100). -/
def State.countTick (s : State) : State := { s with sync2 := s.sync2 + 1 }

/-- FAST_TICK (R100). -/
def execFastTick (s : State) : Host.Outcome State Fault Refusal := s.countMilli.countTick.done

/-- `R.driftError <- wrap_16(t2 - 1000)` with `t2 = wrap_16(R.sync2 + 1)` (R101). -/
def State.latchDrift (s : State) : State :=
  { s with driftError := s.sync2 + 1 - Config.errNominal }

/-- `R.sync1 <- 0; R.sync2 <- 0` (R101). -/
def State.clearSync (s : State) : State := { s with sync1 := 0, sync2 := 0 }

/-- PRECISE_TICK (R101). -/
def execPreciseTick (s : State) : Host.Outcome State Fault Refusal :=
  ((s.latchDrift.setClock (s.seconds + 1)).clearSync).done

/-- SET_TIME (R102): `sync1`, `sync2` and `driftError` are kept (decision D8). -/
def execSetTime (v : Word32) (s : State) : Host.Outcome State Fault Refusal :=
  ((s.setClock v).emit .ack).done

/-- READ_TIME (R103). -/
def execReadTime (s : State) : Host.Outcome State Fault Refusal :=
  (s.emit (.time s.seconds s.millis)).done

/-- READ_DIAG (R104). -/
def execReadDiag (s : State) : Host.Outcome State Fault Refusal :=
  (s.emit (.diag s.sync1 s.sync2 s.driftError)).done

/-- CORR_CHECK on the entry `p = pe[i]` (R105): the occurrence check, then the underflow check
(R228). -/
def corrCheckEntry (i : Byte) (s : State) (p : PeriodicEvent) : Host.Outcome State Fault Refusal :=
  match occ p s.now with
  | (false, _) => (s.emit (.corr false)).done
  | (true, p') =>
    if s.seconds = 0 then s.raise .corrUnderflow
    else (((s.setEntry i p').setClock (s.seconds - 1)).emit (.corr true)).done

/-- CORR_CHECK (R105). -/
def execCorrCheck (i : Byte) (s : State) : Host.Outcome State Fault Refusal :=
  withEntry i (.corrCheck i) s (corrCheckEntry i s)

end Sys2Proof.Machine
end

