-- ==== Sys2Proof/Machine/Dispatch.lean ====
section
/-! DEFINITION. One arm per command: the direct call of its meaning. -/

namespace Sys2Proof.Machine

def exec (i : Instr) (s : State) : Host.Outcome State Fault Refusal :=
  match i with
  | .fastTick => Sys2Proof.Machine.execFastTick s
  | .preciseTick => Sys2Proof.Machine.execPreciseTick s
  | .setTime v => Sys2Proof.Machine.execSetTime v s
  | .readTime => Sys2Proof.Machine.execReadTime s
  | .readDiag => Sys2Proof.Machine.execReadDiag s
  | .corrCheck k => Sys2Proof.Machine.execCorrCheck k s
  | .dcfEdge e level => Sys2Proof.Machine.execDcfEdge e level s
  | .dcfOn => Sys2Proof.Machine.execDcfOn s
  | .dcfOff => Sys2Proof.Machine.execDcfOff s
  | .readDcf => Sys2Proof.Machine.execReadDcf s
  | .peConfig k d m => Sys2Proof.Machine.execPeConfig k d m s
  | .peOccurred k => Sys2Proof.Machine.execPeOccurred k s
  | .peReset k => Sys2Proof.Machine.execPeReset k s
  | .readPe k => Sys2Proof.Machine.execReadPe k s

end Sys2Proof.Machine
end

