-- ==== Sys2Proof/Machine/Fetch.lean ====
section
/-! DEFINITION. How the block comes to its next command: the oldest event of the agent the arbiter
points at (R228), decoded before anything else (R223). -/

namespace Sys2Proof.Machine

/-- The next input event: the agent the arbiter points at, and that agent's oldest word. -/
def State.nextEvent (s : State) : Option (Agent × Word64) :=
  match s.nextAgent with
  | none => none
  | some a =>
    match s.pending.queue a with
    | [] => none
    | w :: _ => some (a, w)

/-- `s` with the word `w` as the only pending event, issued by the host, and reset not asserted, so
that the next step takes exactly it. -/
def State.withOnlyEvent (w : Word64) (s : State) : State :=
  { s with pending := { Pending.empty with host := [w] }, resetAsserted := false }

end Sys2Proof.Machine
end

