-- ==== Sys2Proof/Machine/Run.lean ====
section
/-! DEFINITION. What one step does (00_scope.md R3), and the run of a list of commands. -/

namespace Sys2Proof.Machine

/-- The event (`a`, `w`) is taken: its word is checked before anything else (R223), and is then run
or raises `ILLEGAL(w)`. -/
def runEvent (a : Agent) (w : Word64) (s : State) : Host.Outcome State Fault Refusal :=
  match decode s.nPE w with
  | .ok i => exec i (s.takeEvent a)
  | .error _ => (s.takeEvent a).raise (.illegal w)

/-- One step.  An asserted reset input is taken first (R250).  Otherwise the block takes one pending
event (R34, R228).  With no event pending there is no step (R3). -/
def oneStep (s : State) : Host.Outcome State Fault Refusal :=
  if s.resetAsserted then .next s.applyReset
  else
    match s.nextEvent with
    | none => .fault .noPendingEvent
    | some (a, w) => runEvent a w s

/-- Commands run one after another with nothing between, each seeing every effect of the earlier ones
(R65; log entry 17). -/
def runAll (cs : List Instr) (s : State) : Host.Outcome State Fault Refusal :=
  match cs with
  | [] => .next s
  | c :: rest =>
    match exec c s with
    | .next t => runAll rest t
    | .fault r => .fault r
    | .refused r => .refused r

end Sys2Proof.Machine
end

