-- ==== Sys2Proof/Machine/Step.lean ====
section
/-! DEFINITION. One step of the block, and where an instruction is placed for it. -/

namespace Sys2Proof.Machine

/-- One step of the block (R3). -/
def step (s : State) : Host.Outcome State Fault Refusal := oneStep s

/-- `s` with the instruction of the opcode table's word `w` as its next event (log entry 7). -/
def State.withFetchWord (s : State) (nbits w : Nat) : State := s.withOnlyEvent (wordOfTable nbits w)

end Sys2Proof.Machine
end

