-- ==== Sys2Proof/Machine/Sequences.lean ====
section
/-! DEFINITION. The host's command sequences: the pseudo-instructions of 30_encoding.md R87 and the
boot order of 70_reset_and_hazards.md R251 (log entry 17). -/

namespace Sys2Proof.Machine

/-- The five pseudo-instructions (R87). -/
inductive Pseudo where
  /-- `FAST_TICKS n` -/
  | fastTicks (n : Nat)
  /-- `DCF_BIT b` -/
  | dcfBit (b : Bool)
  /-- `DCF_BITS "b0b1...bk"` -/
  | dcfBits (bs : List Bool)
  /-- `PE_RESET_ALL` -/
  | peResetAll
  /-- `DCF_APPLY s` -/
  | dcfApply (s : Word32)
  deriving DecidableEq, Repr

/-- The edge event of `DCF_BIT b`: 100 ms for a 0, 200 ms for a 1, at the active level (R87). -/
def bitEdge (b : Bool) : Instr := .dcfEdge (if b then 200#32 else 100#32) false

/-- `PE_RESET 0` up to `PE_RESET N_PE-1`, in index order (R87). -/
def resetAll (nPE : Nat) : List Instr :=
  (List.range nPE).map fun k => .peReset (BitVec.ofNat 8 k)

/-- The plain commands a pseudo-instruction expands to (R87). -/
def Pseudo.expand (nPE : Nat) (p : Pseudo) : List Instr :=
  match p with
  | .fastTicks n => List.replicate n .fastTick
  | .dcfBit b => [bitEdge b]
  | .dcfBits bs => bs.map bitEdge
  | .peResetAll => resetAll nPE
  | .dcfApply s => [.setTime s, .dcfOff] ++ resetAll nPE

/-- The bring-up order of R251: SET_TIME with the known time, if there is one; PE_CONFIG for every
entry the host polls, the correction entry with `P_CORR_DELAY_MS` and `P_CORR_MAX` among them;
DCF_ON, if radio reception is wanted. -/
def bootSequence (known : Option Word32) (polled : List (Byte × Word32 × Byte)) (corr : Byte)
    (radio : Bool) : List Instr :=
  known.toList.map .setTime ++
  polled.map (fun x => .peConfig x.1 x.2.1 x.2.2) ++
  [.peConfig corr Config.pCorrDelayMs Config.pCorrMax] ++
  (if radio then [.dcfOn] else [])

end Sys2Proof.Machine
end

