-- ==== Sys2Proof/Machine/Asm.lean ====
section
/-! DEFINITION. The assembler of 30_encoding.md R86 and R87: one command a line, the mnemonic first,
operands separated by commas, in decimal or in hex with 0x, `;` starting a comment; and `.word` of
95_test_vectors.md, which places a raw word (log entry 16). -/

namespace Sys2Proof.Machine

/-- Why a line is rejected. -/
inductive AsmError where
  | unknownMnemonic
  | badOperands
  | badNumber
  | operandTooLarge
  | indexOutOfRange
  deriving DecidableEq, Repr

/-! ### Operands that fit their fields -/

/-- The number as a field of `width` bits; an operand that does not fit is rejected (R86). -/
def fitField (width n : Nat) : Except AsmError (BitVec width) :=
  if n < 2 ^ width then .ok (BitVec.ofNat width n) else .error .operandTooLarge

/-- The number as an index; one of `N_PE` or more is rejected (R86). -/
def fitIndex (nPE n : Nat) : Except AsmError Byte :=
  match fitField 8 n with
  | .ok i => if n < nPE then .ok i else .error .indexOutOfRange
  | .error e => .error e

/-- The number as a level, 0 or 1 (R86). -/
def fitLevel (n : Nat) : Except AsmError Bool :=
  match n with
  | 0 => .ok false
  | 1 => .ok true
  | _ => .error .operandTooLarge

/-- One command from its opcode and its operands as numbers, in the order of R86. -/
def assembleCommand (nPE : Nat) (o : Opcode) (operands : List Nat) : Except AsmError Instr :=
  match o, operands with
  | .fastTick, [] => .ok .fastTick
  | .preciseTick, [] => .ok .preciseTick
  | .setTime, [s] => (fitField 32 s).map .setTime
  | .readTime, [] => .ok .readTime
  | .readDiag, [] => .ok .readDiag
  | .corrCheck, [i] => (fitIndex nPE i).map .corrCheck
  | .dcfEdge, [e, l] => (fitField 32 e).bind fun e => (fitLevel l).map (.dcfEdge e)
  | .dcfOn, [] => .ok .dcfOn
  | .dcfOff, [] => .ok .dcfOff
  | .readDcf, [] => .ok .readDcf
  | .peConfig, [i, d, m] =>
    (fitIndex nPE i).bind fun i => (fitField 32 d).bind fun d => (fitField 8 m).map (.peConfig i d)
  | .peOccurred, [i] => (fitIndex nPE i).map .peOccurred
  | .peReset, [i] => (fitIndex nPE i).map .peReset
  | .readPe, [i] => (fitIndex nPE i).map .readPe
  | _, _ => .error .badOperands

/-- The operands of a command as numbers, in the order of R86. -/
def operandsOf (c : Instr) : List Nat :=
  match c with
  | .fastTick => []
  | .preciseTick => []
  | .setTime s => [s.toNat]
  | .readTime => []
  | .readDiag => []
  | .corrCheck i => [i.toNat]
  | .dcfEdge e l => [e.toNat, l.toNat]
  | .dcfOn => []
  | .dcfOff => []
  | .readDcf => []
  | .peConfig i d m => [i.toNat, d.toNat, m.toNat]
  | .peOccurred i => [i.toNat]
  | .peReset i => [i.toNat]
  | .readPe i => [i.toNat]

/-! ### The text of a line -/

/-- The letters of a mnemonic, as the opcode table spells it. -/
def mnemonicLetters (o : Opcode) : List Char :=
  match o with
  | .fastTick => "FAST_TICK".toList
  | .preciseTick => "PRECISE_TICK".toList
  | .setTime => "SET_TIME".toList
  | .readTime => "READ_TIME".toList
  | .readDiag => "READ_DIAG".toList
  | .corrCheck => "CORR_CHECK".toList
  | .dcfEdge => "DCF_EDGE".toList
  | .dcfOn => "DCF_ON".toList
  | .dcfOff => "DCF_OFF".toList
  | .readDcf => "READ_DCF".toList
  | .peConfig => "PE_CONFIG".toList
  | .peOccurred => "PE_OCCURRED".toList
  | .peReset => "PE_RESET".toList
  | .readPe => "READ_PE".toList

/-- A blank of a line. -/
def isBlank (c : Char) : Bool := c == ' ' || c == '\t'

/-- The text without blanks at its ends. -/
def trimBlanks (cs : List Char) : List Char :=
  ((cs.dropWhile isBlank).reverse.dropWhile isBlank).reverse

/-- The text before the comment. -/
def dropComment (cs : List Char) : List Char := cs.takeWhile (· != ';')

/-- The pieces between commas. -/
def splitCommas (cs : List Char) : List (List Char) :=
  match cs with
  | [] => [[]]
  | c :: rest =>
    if c == ',' then [] :: splitCommas rest
    else
      match splitCommas rest with
      | [] => [[c]]
      | first :: more => (c :: first) :: more

/-- The operand texts after the mnemonic. -/
def operandTexts (cs : List Char) : List (List Char) :=
  match trimBlanks cs with
  | [] => []
  | t => (splitCommas t).map trimBlanks

/-- The value of a digit, where it is one of the base. -/
def digitValue (base : Nat) (c : Char) : Option Nat :=
  let v :=
    if 48 ≤ c.toNat ∧ c.toNat ≤ 57 then c.toNat - 48
    else if 65 ≤ c.toNat ∧ c.toNat ≤ 70 then c.toNat - 55
    else if 97 ≤ c.toNat ∧ c.toNat ≤ 102 then c.toNat - 87
    else base
  if v < base then some v else none

/-- The number a run of digits writes, after `acc` for the digits before. -/
def digitsValue (base acc : Nat) (cs : List Char) : Option Nat :=
  match cs with
  | [] => some acc
  | c :: rest =>
    match digitValue base c with
    | some v => digitsValue base (acc * base + v) rest
    | none => none

/-- A number in decimal, or in hex with 0x (R86). -/
def numberOf (cs : List Char) : Option Nat :=
  match cs with
  | [] => none
  | ['0', 'x'] => none
  | '0' :: 'x' :: ds => digitsValue 16 0 ds
  | ds => digitsValue 10 0 ds

/-- Every operand text as a number. -/
def numbersOf (ts : List (List Char)) : Option (List Nat) :=
  match ts with
  | [] => some []
  | t :: rest =>
    match numberOf t, numbersOf rest with
    | some n, some ns => some (n :: ns)
    | _, _ => none

/-- The bits of the quoted operand of `DCF_BITS` (R87); the quote is the character 34.  DESIGN CHOICE:
R87's form has at least `b0`, and the model accepts an empty quoted string too, which gives no words
(log entry 16). -/
def quotedBits (cs : List Char) : Option (List Bool) :=
  match cs with
  | [] => none
  | q :: rest =>
    if q.toNat = 34 ∧ rest.getLast?.map Char.toNat = some 34
        ∧ rest.dropLast.all (fun c => c == '0' || c == '1') then
      some (rest.dropLast.map (· == '1'))
    else none

/-- The words of a line, from its mnemonic and its operand texts (R86, R87). -/
def assembleParts (nPE : Nat) (name : List Char) (ts : List (List Char)) :
    Except AsmError (List Word64) :=
  if name = "DCF_BITS".toList then
    match ts.map quotedBits with
    | [some bs] => .ok (((Pseudo.dcfBits bs).expand nPE).map encode)
    | _ => .error .badOperands
  else
    match numbersOf ts with
    | none => .error .badNumber
    | some ns =>
      match Opcode.all.find? (fun o => mnemonicLetters o == name) with
      | some o => (assembleCommand nPE o ns).map fun c => [encode c]
      | none =>
        if name = "FAST_TICKS".toList then
          match ns with
          | [n] => .ok (((Pseudo.fastTicks n).expand nPE).map encode)
          | _ => .error .badOperands
        else if name = "DCF_BIT".toList then
          match ns with
          | [b] => (fitLevel b).map fun b => ((Pseudo.dcfBit b).expand nPE).map encode
          | _ => .error .badOperands
        else if name = "PE_RESET_ALL".toList then
          match ns with
          | [] => .ok ((Pseudo.peResetAll.expand nPE).map encode)
          | _ => .error .badOperands
        else if name = "DCF_APPLY".toList then
          match ns with
          | [s] => (fitField 32 s).map fun s => ((Pseudo.dcfApply s).expand nPE).map encode
          | _ => .error .badOperands
        else if name = ".word".toList then
          match ns with
          | [w] => (fitField 64 w).map fun w => [w]
          | _ => .error .badOperands
        else .error .unknownMnemonic

/-- The words of one line; a line with only blanks and a comment has none (R86). -/
def assembleLine (nPE : Nat) (line : List Char) : Except AsmError (List Word64) :=
  match trimBlanks (dropComment line) with
  | [] => .ok []
  | t =>
    assembleParts nPE (t.takeWhile (fun c => !isBlank c))
      (operandTexts (t.dropWhile (fun c => !isBlank c)))

/-- The words of a program, line after line. -/
def assemble (nPE : Nat) (lines : List (List Char)) : Except AsmError (List Word64) :=
  match lines with
  | [] => .ok []
  | l :: rest => (assembleLine nPE l).bind fun ws => (assemble nPE rest).map (ws ++ ·)

end Sys2Proof.Machine
end

