-- ==== Sys2Proof/Machine/Records.lean ====
section
/-! DEFINITION. The platform's numbers and kinds of the output records (60_exceptions.md R222). -/

namespace Sys2Proof.Machine

/-- The three kinds of R222. -/
inductive RecordKind where
  | response
  | notification
  | fault
  deriving DecidableEq, Repr

/-- The code of a record (R222). -/
def Record.code (r : Record) : Byte :=
  match r with
  | .ack => 0x00#8
  | .time _ _ => 0x01#8
  | .diag _ _ _ => 0x02#8
  | .dcfstat _ _ _ _ => 0x03#8
  | .pestat _ _ _ _ => 0x04#8
  | .fired _ => 0x05#8
  | .corr _ => 0x06#8
  | .bitOk _ => 0x10#8
  | .bitFail => 0x11#8
  | .frameOk _ _ _ _ _ => 0x12#8
  | .frameParityErr _ _ _ => 0x13#8
  | .frameCountErr _ => 0x14#8
  | .fault (.illegal _) => 0xE0#8
  | .fault .corrUnderflow => 0xE1#8

/-- The kind of a record (R222). -/
def Record.kind (r : Record) : RecordKind :=
  match r with
  | .ack => .response
  | .time _ _ => .response
  | .diag _ _ _ => .response
  | .dcfstat _ _ _ _ => .response
  | .pestat _ _ _ _ => .response
  | .fired _ => .response
  | .corr _ => .response
  | .bitOk _ => .notification
  | .bitFail => .notification
  | .frameOk _ _ _ _ _ => .notification
  | .frameParityErr _ _ _ => .notification
  | .frameCountErr _ => .notification
  | .fault _ => .fault

end Sys2Proof.Machine
end

