-- ==== Sys2Proof/Safety.lean ====
section
/-! DEFINITION. What counts as a safe run, the invariants, the states the block reaches, and the
terms the claims are stated in. -/

namespace Sys2Proof.Machine

/-! ### Runs without a fault (R221) -/

/-- No fault record has been emitted: a run with a fault is never a good final run (R221). -/
def State.faultFree (s : State) : Bool := s.outs.all (fun r => r.kind != .fault)

/-! ### Invariants -/

/-- The clock relation of R106: `sync1 <= 999` and `millis = seconds * 1000 + d`, `0 <= d <= sync1`. -/
def ClockInv (s : State) : Prop :=
  s.sync1.toNat ≤ 999 ∧ s.seconds.toNat * 1000 ≤ s.millis.toNat ∧
    s.millis.toNat ≤ s.seconds.toNat * 1000 + s.sync1.toNat

/-- An entry's count is bounded by its max, and stays 0 without one (R29, R147); its time stamp is a
value `millis` has had (R28, R106). -/
def EntryInv (p : PeriodicEvent) : Prop :=
  (p.max = 0 → p.count = 0) ∧ (p.max ≠ 0 → p.count.toNat ≤ p.max.toNat) ∧ p.last.toNat < 2 ^ 42

/-- Off means idle, idle means cursor 0 (R32), and while streaming the bits not yet taken are 0
(R174, R176). -/
def DecoderInv (s : State) : Prop :=
  (s.enabled = false → s.streaming = false) ∧ (s.streaming = false → s.cursor = 0) ∧
    (s.streaming = true → ∀ k, s.cursor.val ≤ k → s.buf.getLsbD k = false)

/-- The invariant of the block. -/
def Inv (s : State) : Prop :=
  ClockInv s ∧ (∀ p ∈ s.pe, EntryInv p) ∧ (1 ≤ s.nPE ∧ s.nPE ≤ Config.nPEMax) ∧ DecoderInv s

/-- The states the block reaches, from reset with any legal `N_PE`, under any arrival of events from
the agents and any use of the reset input. -/
inductive Reachable : State → Prop where
  | reset (n : Nat) (low : 1 ≤ n) (high : n ≤ Config.nPEMax) : Reachable (State.resetWith n)
  | arrive (a : Agent) (w : Word64) (s : State) (h : Reachable s) : Reachable (s.arrive a w)
  | assertReset (s : State) (h : Reachable s) : Reachable s.assertReset
  | step (s t : State) (h : Reachable s) (e : step s = .next t) : Reachable t

/-! ### Frames -/

/-- The RTCS registers are the same in both states (R21 to R25). -/
def SameRtc (s t : State) : Prop :=
  t.millis = s.millis ∧ t.seconds = s.seconds ∧ t.sync1 = s.sync1 ∧ t.sync2 = s.sync2 ∧
    t.driftError = s.driftError

/-- The periodic-event file is the same in both states (R26 to R29). -/
def SamePet (s t : State) : Prop := t.pe = s.pe

/-- The decoder's registers and the telegram buffer are the same in both states (R30 to R33). -/
def SameDcf (s t : State) : Prop :=
  t.enabled = s.enabled ∧ t.streaming = s.streaming ∧ t.cursor = s.cursor ∧ t.buf = s.buf

/-- The input side is the same in both states: pending events and the reset input (R34, R250). -/
def SameInputs (s t : State) : Prop :=
  t.pending = s.pending ∧ t.resetAsserted = s.resetAsserted

/-- No free value was used between the two states. -/
def NoDraw (s t : State) : Prop := t.freeIndex = s.freeIndex

/-- Between the two states exactly the records `rs` were emitted and the trace position advanced by
one (R20, R85). -/
def Emits (rs : List Record) (s t : State) : Prop := t.outs = s.outs ++ rs ∧ t.pc = s.pc + 1

/-- Every entry but `pe[i]` is the same in both states, and there are as many. -/
def SameOtherEntries (i : Byte) (s t : State) : Prop :=
  t.nPE = s.nPE ∧ ∀ k : Byte, k ≠ i → t.entry? k = s.entry? k

/-! ### Firings of an entry (R140, R145 to R149) -/

/-- The occurrence condition of R140 in exact integers: the entry is not exhausted and
`now >= last + delay`. -/
def FiresAt (p : PeriodicEvent) (now : Word64) : Prop :=
  ¬ (p.max ≠ 0 ∧ p.max.toNat ≤ p.count.toNat) ∧ p.last.toNat + p.delay.toNat ≤ now.toNat

/-- The command re-arms entry `i`: PE_CONFIG or PE_RESET on it (R147). -/
def rearms (i : Byte) (c : Instr) : Bool :=
  match c with
  | .peConfig k _ _ => k == i
  | .peReset k => k == i
  | .fastTick => false
  | .preciseTick => false
  | .setTime _ => false
  | .readTime => false
  | .readDiag => false
  | .corrCheck _ => false
  | .dcfEdge _ _ => false
  | .dcfOn => false
  | .dcfOff => false
  | .readDcf => false
  | .peOccurred _ => false
  | .readPe _ => false

/-- The occurrence condition of entry `i` holds now (R140). -/
def due (i : Byte) (s : State) : Bool :=
  match s.entry? i with
  | some p => (occ p s.now).1
  | none => false

/-- The command makes entry `i` fire: PE_OCCURRED on it when it is due, or CORR_CHECK on it when it
is due and does not underflow (R105, R142). -/
def firesBy (i : Byte) (c : Instr) (s : State) : Bool :=
  match c with
  | .peOccurred k => k == i && due i s
  | .corrCheck k => k == i && due i s && s.seconds != 0
  | .peConfig _ _ _ => false
  | .peReset _ => false
  | .fastTick => false
  | .preciseTick => false
  | .setTime _ => false
  | .readTime => false
  | .readDiag => false
  | .dcfEdge _ _ => false
  | .dcfOn => false
  | .dcfOff => false
  | .readDcf => false
  | .readPe _ => false

/-- How many times entry `i` fires while the commands run from `s`. -/
def firings (i : Byte) (cs : List Instr) (s : State) : Nat :=
  match cs with
  | [] => 0
  | c :: rest =>
    (firesBy i c s).toNat +
      match exec c s with
      | .next t => firings i rest t
      | .fault _ => 0
      | .refused _ => 0

/-- In every state the run passes through, its end included, `R.millis` is below `bound`. -/
def staysBelow (bound : Nat) (cs : List Instr) (s : State) : Prop :=
  match cs with
  | [] => s.millis.toNat < bound
  | c :: rest =>
    s.millis.toNat < bound ∧
      match exec c s with
      | .next t => staysBelow bound rest t
      | .fault _ => True
      | .refused _ => True

/-! ### Streams of pulses (R189) -/

/-- An edge at the active level whose duration lies in the band of the bit `v`. -/
def IsPulse (v : Bool) (e : Word32) : Prop := band e = if v then .one else .zero

/-- The buffer whose bit `k` is the `k`-th of the list, and 0 beyond it. -/
def telegramOf (bs : List Bool) : Telegram := BitVec.ofFnLE fun k : Fin 60 => bs.getD k.val false

end Sys2Proof.Machine
end

