-- ==== Sys2Proof/Certificates/Slice0/Obligations.lean ====
section
/-! DEFINITION. The statements for the provers, from the numbered rules of spec/. -/

open Sys2Proof Sys2Proof.Machine

/-! ### Encoding (30_encoding.md) -/

/-- R86: words written out from the spec's forms decode to their commands. -/
def Obligations.WordsDecodeToTheirCommands : Prop :=
  decode 8 0x0100000000000000#64 = .ok .fastTick ∧
  decode 8 0x0200000000000000#64 = .ok .preciseTick ∧
  decode 8 0x0300000000000064#64 = .ok (.setTime 100) ∧
  decode 8 0x0400000000000000#64 = .ok .readTime ∧
  decode 8 0x0500000000000000#64 = .ok .readDiag ∧
  decode 8 0x0601000000000000#64 = .ok (.corrCheck 1) ∧
  decode 8 0x1000010000000708#64 = .ok (.dcfEdge 1800 true) ∧
  decode 8 0x1100000000000000#64 = .ok .dcfOn ∧
  decode 8 0x1200000000000000#64 = .ok .dcfOff ∧
  decode 8 0x1300000000000000#64 = .ok .readDcf ∧
  decode 8 0x20000200000001F4#64 = .ok (.peConfig 0 500 2) ∧
  decode 8 0x2104000000000000#64 = .ok (.peOccurred 4) ∧
  decode 8 0x2207000000000000#64 = .ok (.peReset 7) ∧
  decode 8 0x2302000000000000#64 = .ok (.readPe 2)

/-- R80 to R83, R86: decoding an encoded well-formed command gives it back. -/
def Obligations.DecodeOfEncodeIsTheCommand : Prop :=
  ∀ (nPE : Nat) (i : Instr), i.wellFormed nPE = true → decode nPE (encode i) = .ok i

/-- R80 to R84: a word that decodes is the one word of its command, and the command is well-formed. -/
def Obligations.EncodeOfDecodeIsTheWord : Prop :=
  ∀ (nPE : Nat) (w : Word64) (i : Instr),
    decode nPE w = .ok i → encode i = w ∧ i.wellFormed nPE = true

/-- R84: the three conditions that make a word illegal, in the bits of the word, and what a step on
an illegal word does.
Taking the event uses one free value of the model's arbiter (log entry 2). -/
def Obligations.IllegalWordsAreExactlyThose : Prop :=
  ∀ (nPE : Nat) (w : Word64),
    ((∃ e, decode nPE w = .error e) ↔
      (let op := w.extractLsb' 56 8
       let idx := w.extractLsb' 48 8
       op ∉ [0x01#8, 0x02#8, 0x03#8, 0x04#8, 0x05#8, 0x06#8, 0x10#8, 0x11#8, 0x12#8, 0x13#8,
             0x20#8, 0x21#8, 0x22#8, 0x23#8] ∨
       (op ∈ [0x01#8, 0x02#8, 0x04#8, 0x05#8, 0x11#8, 0x12#8, 0x13#8] ∧
         w &&& 0x00FFFFFFFFFFFFFF#64 ≠ 0) ∨
       (op = 0x03#8 ∧ w &&& 0x00FFFFFF00000000#64 ≠ 0) ∨
       (op = 0x10#8 ∧ w &&& 0x00FFFEFF00000000#64 ≠ 0) ∨
       (op ∈ [0x06#8, 0x21#8, 0x22#8, 0x23#8] ∧
         (w &&& 0x0000FFFFFFFFFFFF#64 ≠ 0 ∨ nPE ≤ idx.toNat)) ∨
       (op = 0x20#8 ∧ (w &&& 0x000000FF00000000#64 ≠ 0 ∨ nPE ≤ idx.toNat)))) ∧
    (∀ (s : State) (a : Agent), s.nPE = nPE → s.resetAsserted = false →
      s.nextEvent = some (a, w) → (∃ e, decode nPE w = .error e) →
      step s = .next { s.takeEvent a with
        outs := s.outs ++ [.fault (.illegal w)], pc := s.pc + 1 })

/-- opcode_table.json: a word is legal exactly when it matches a row (and its index exists), and the
row it matches is the one of its command. -/
def Obligations.LegalWordsMatchTheOpcodeTable : Prop :=
  ∀ (nPE : Nat) (w : Word64),
    ((∃ i, decode nPE w = .ok i) ↔
      ∃ r ∈ opcodeTable, w &&& r.mask = r.pattern ∧
        (r.indexed = true → (w.extractLsb' 48 8).toNat < nPE)) ∧
    (∀ i r, decode nPE w = .ok i → r ∈ opcodeTable → w &&& r.mask = r.pattern →
      r.mnemonic.toList = mnemonicLetters i.opcode)

/-- R86: an operand list assembles to a command exactly when it is that command's own operands, each
in its field and the index below `N_PE`. -/
def Obligations.AssemblerAcceptsExactlyFittingOperands : Prop :=
  ∀ (nPE : Nat) (o : Opcode) (ns : List Nat) (i : Instr),
    assembleCommand nPE o ns = .ok i ↔
      i.opcode = o ∧ operandsOf i = ns ∧ i.wellFormed nPE = true

/-! ### The step, input events and reset -/

/-- R3, R223, R226: when the word of the next event decodes, the step is `exec` of its command, with
the event consumed. -/
def Obligations.StepRunsTheDecodedCommand : Prop :=
  ∀ (s : State) (a : Agent) (w : Word64) (i : Instr),
    s.resetAsserted = false → s.nextEvent = some (a, w) → decode s.nPE w = .ok i →
    step s = exec i (s.takeEvent a)

/-- The model's reading of R3 (log entry 6): a step stops exactly when reset is not asserted and no
agent has an event pending, and never otherwise.
That reset is taken first is log entry 9. -/
def Obligations.StepStopsOnlyWithoutInput : Prop :=
  ∀ s : State,
    ((∃ t, step s = .next t) ↔
      (s.resetAsserted = true ∨ ∃ a, s.pending.queue a ≠ [])) ∧
    (step s = .fault .noPendingEvent ↔
      (s.resetAsserted = false ∧ ∀ a, s.pending.queue a = []))

/-- R34, R228: events join their agent's queue at its end, every step takes exactly the oldest event
of one agent, and no other event is lost, merged or re-ordered.
The queues are the model's form of the pending events (log entry 10). -/
def Obligations.EventsAreTakenOnceInIssueOrder : Prop :=
  (∀ (s : State) (a : Agent) (w : Word64),
    (s.arrive a w).pending.queue a = s.pending.queue a ++ [w] ∧
    ∀ b, b ≠ a → (s.arrive a w).pending.queue b = s.pending.queue b) ∧
  (∀ s t : State, s.resetAsserted = false → step s = .next t →
    ∃ a w, s.pending.queue a = w :: t.pending.queue a ∧
      ∀ b, b ≠ a → t.pending.queue b = s.pending.queue b)

/-- R228: the arbiter's choice can fall on any agent that has an event pending, and on no other.
The form of the choice is the model's (log entry 2). -/
def Obligations.ArbiterCanPickAnyReadyAgent : Prop :=
  ∀ (s : State) (a : Agent),
    (s.pending.queue a ≠ [] ↔ ∃ choice, arbitrate choice s.pending.ready = some a) ∧
    s.nextAgent = arbitrate (Config.freeChoice s.freeIndex) s.pending.ready

/-- R20: the trace position is 0 after reset, every step adds one whatever the command does, and no
command reads it. -/
def Obligations.EveryStepAdvancesTheTracePosition : Prop :=
  State.reset.pc = 0 ∧
  (∀ s t : State, s.resetAsserted = false → step s = .next t → t.pc = s.pc + 1) ∧
  (∀ (i : Instr) (s t : State) (k : Nat),
    exec i s = .next t → exec i { s with pc := k } = .next { t with pc := k + 1 })

/-- R34, R229: a command's effect does not depend on the events still pending, nor on what was
emitted before.
That earlier records stand in the state is the model's choice (log entry 5). -/
def Obligations.CommandsDoNotSeePendingEvents : Prop :=
  ∀ (i : Instr) (s t : State) (q : Pending) (log : List Record),
    exec i s = .next t →
    ∃ rs, t.outs = s.outs ++ rs ∧
      exec i { s with pending := q, outs := log } =
        .next { t with pending := q, outs := log ++ rs }

/-- R232: every command completes in its step, in every state. -/
def Obligations.EveryCommandCompletesInItsStep : Prop :=
  ∀ (i : Instr) (s : State), ∃ t, exec i s = .next t ∧ t.pc = s.pc + 1

/-- R250: the reset input puts every piece of state at its reset value, discards the pending events,
and emits nothing; and the state after reset.
That reset is taken before a pending event and that earlier records stay are the model's choices
(log entries 9 and 5). -/
def Obligations.ResetClearsEverything : Prop :=
  (∀ s : State, s.resetAsserted = true →
    ∃ t, step s = .next t ∧ t.millis = 0 ∧ t.seconds = 0 ∧ t.sync1 = 0 ∧ t.sync2 = 0 ∧
      t.driftError = 0 ∧ t.nPE = s.nPE ∧
      (∀ p ∈ t.pe, p.delay = 0 ∧ p.max = 0 ∧ p.last = 0 ∧ p.count = 0) ∧
      t.enabled = false ∧ t.streaming = false ∧ t.cursor = 0 ∧ t.buf = 0 ∧
      (∀ a, t.pending.queue a = []) ∧ t.pc = 0 ∧ t.outs = s.outs) ∧
  State.reset.millis = 0 ∧ State.reset.seconds = 0 ∧ State.reset.sync1 = 0 ∧
  State.reset.sync2 = 0 ∧ State.reset.driftError = 0 ∧
  State.reset.pe = List.replicate 8 { delay := 0, max := 0, last := 0, count := 0 } ∧
  State.reset.enabled = false ∧ State.reset.streaming = false ∧ State.reset.cursor = 0 ∧
  State.reset.buf = 0 ∧ State.reset.pending = Pending.empty ∧ State.reset.pc = 0

/-! ### The RTC synchronizer (40_rtc.md) -/

/-- R100: FAST_TICK. -/
def Obligations.FastTickAdvancesUntilThePark : Prop :=
  encode .fastTick = 0x0100000000000000#64 ∧ Instr.fastTick.agent = .fastTimer ∧
  ∀ s : State, ∃ t, exec .fastTick s = .next t ∧
    (s.sync1.toNat < 999 →
      t.millis.toNat = (s.millis.toNat + 1) % 2 ^ 64 ∧ t.sync1.toNat = s.sync1.toNat + 1) ∧
    (999 ≤ s.sync1.toNat → t.millis = s.millis ∧ t.sync1 = s.sync1) ∧
    t.sync2.toNat = (s.sync2.toNat + 1) % 2 ^ 16 ∧
    t.seconds = s.seconds ∧ t.driftError = s.driftError ∧
    SamePet s t ∧ SameDcf s t ∧ SameInputs s t ∧ NoDraw s t ∧ Emits [] s t

/-- R101: PRECISE_TICK. -/
def Obligations.PreciseTickEndsTheSecond : Prop :=
  encode .preciseTick = 0x0200000000000000#64 ∧ Instr.preciseTick.agent = .preciseTimer ∧
  ∀ s : State, ∃ t, exec .preciseTick s = .next t ∧
    t.driftError = BitVec.ofInt 16 (((s.sync2.toNat + 1) % 2 ^ 16 : Nat) - 1000 : Int) ∧
    t.seconds.toNat = (s.seconds.toNat + 1) % 2 ^ 32 ∧
    t.millis.toNat = t.seconds.toNat * 1000 ∧ t.sync1 = 0 ∧ t.sync2 = 0 ∧
    SamePet s t ∧ SameDcf s t ∧ SameInputs s t ∧ NoDraw s t ∧ Emits [] s t

/-- R102: SET_TIME. -/
def Obligations.SetTimeOverwritesBothCounters : Prop :=
  ∀ v : Word32, encode (.setTime v) = 0x03#8 ++ 0x00#8 ++ 0x00#8 ++ 0x00#8 ++ v ∧
  (Instr.setTime v).agent = .host ∧
  ∀ s : State, ∃ t, exec (.setTime v) s = .next t ∧
    t.seconds = v ∧ t.millis.toNat = v.toNat * 1000 ∧
    t.sync1 = s.sync1 ∧ t.sync2 = s.sync2 ∧ t.driftError = s.driftError ∧
    SamePet s t ∧ SameDcf s t ∧ SameInputs s t ∧ NoDraw s t ∧ Emits [.ack] s t

/-- R103: READ_TIME. -/
def Obligations.ReadTimeReturnsThePair : Prop :=
  encode .readTime = 0x0400000000000000#64 ∧ Instr.readTime.agent = .host ∧
  ∀ s : State, ∃ t, exec .readTime s = .next t ∧
    SameRtc s t ∧ SamePet s t ∧ SameDcf s t ∧ SameInputs s t ∧ NoDraw s t ∧
    Emits [.time s.seconds s.millis] s t

/-- R104: READ_DIAG. -/
def Obligations.ReadDiagReturnsTheSyncCounters : Prop :=
  encode .readDiag = 0x0500000000000000#64 ∧ Instr.readDiag.agent = .host ∧
  ∀ s : State, ∃ t, exec .readDiag s = .next t ∧
    SameRtc s t ∧ SamePet s t ∧ SameDcf s t ∧ SameInputs s t ∧ NoDraw s t ∧
    Emits [.diag s.sync1 s.sync2 s.driftError] s t

/-- R105, R224: CORR_CHECK on an existing entry, in its three cases. -/
def Obligations.CorrCheckTakesOneSecondBack : Prop :=
  ∀ i : Byte, encode (.corrCheck i) = 0x06#8 ++ i ++ 0x00#8 ++ 0x00#8 ++ 0x00000000#32 ∧
  (Instr.corrCheck i).agent = .host ∧
  ∀ (s : State) (p : PeriodicEvent), s.entry? i = some p →
    (¬ FiresAt p s.millis → ∃ t, exec (.corrCheck i) s = .next t ∧
      SameRtc s t ∧ SamePet s t ∧ SameDcf s t ∧ SameInputs s t ∧ NoDraw s t ∧
      Emits [.corr false] s t) ∧
    (FiresAt p s.millis → s.seconds = 0 → ∃ t, exec (.corrCheck i) s = .next t ∧
      SameRtc s t ∧ SamePet s t ∧ SameDcf s t ∧ SameInputs s t ∧ NoDraw s t ∧
      Emits [.fault .corrUnderflow] s t) ∧
    (FiresAt p s.millis → s.seconds ≠ 0 → ∃ t q, exec (.corrCheck i) s = .next t ∧
      t.seconds.toNat + 1 = s.seconds.toNat ∧ t.millis.toNat = t.seconds.toNat * 1000 ∧
      t.sync1 = s.sync1 ∧ t.sync2 = s.sync2 ∧ t.driftError = s.driftError ∧
      t.entry? i = some q ∧ q.delay = p.delay ∧ q.max = p.max ∧ q.last = s.millis ∧
      q.count.toNat = p.count.toNat + (if p.max = 0 then 0 else 1) ∧
      (q.exhausted = true ↔ p.max ≠ 0 ∧ q.count = p.max) ∧
      SameOtherEntries i s t ∧ SameDcf s t ∧ SameInputs s t ∧ NoDraw s t ∧
      Emits [.corr true] s t)

/-- R106: the clock relation in every state the block reaches. -/
def Obligations.ReachedStatesKeepTheClockRelation : Prop :=
  ∀ s : State, Reachable s →
    s.sync1.toNat ≤ 999 ∧ s.millis.toNat < 2 ^ 42 ∧
    ∃ d, d ≤ s.sync1.toNat ∧ s.millis.toNat = s.seconds.toNat * 1000 + d

/-- R107: the park property, for a run of `n` fast ticks and no other step. -/
def Obligations.FastTicksParkAtMost999 : Prop :=
  ∀ (n : Nat) (s : State), s.sync1.toNat ≤ 999 →
    ∃ t, runAll (List.replicate n .fastTick) s = .next t ∧
      t.millis = s.millis + BitVec.ofNat 64 (min n (999 - s.sync1.toNat)) ∧
      t.sync1.toNat = s.sync1.toNat + min n (999 - s.sync1.toNat) ∧
      t.sync2.toNat = (s.sync2.toNat + n) % 2 ^ 16 ∧
      t.seconds = s.seconds ∧ t.driftError = s.driftError ∧ t.outs = s.outs

/-- R108: the resync property and the size of the jump. -/
def Obligations.PreciseTickJumpsAtMostOneSecond : Prop :=
  ∀ s : State, ∃ t, exec .preciseTick s = .next t ∧
    t.millis.toNat = t.seconds.toNat * 1000 ∧ t.sync1 = 0 ∧ t.sync2 = 0 ∧
    (ClockInv s → s.seconds.toNat < 2 ^ 32 - 1 →
      ∃ d, s.millis.toNat = s.seconds.toNat * 1000 + d ∧ d ≤ s.sync1.toNat ∧
        1 ≤ 1000 - d ∧ 1000 - d ≤ 1000 ∧ t.millis.toNat = s.millis.toNat + (1000 - d))

/-- R109: only SET_TIME, CORR_CHECK and the wrap of the seconds can move time backward. -/
def Obligations.TimeMovesBackwardOnlyBySetOrCorrection : Prop :=
  ∀ (i : Instr) (s t : State), ClockInv s → exec i s = .next t →
    (∀ v, i ≠ .setTime v) → (∀ k, i ≠ .corrCheck k) →
    (i = .preciseTick → s.seconds.toNat ≠ 2 ^ 32 - 1) →
    s.seconds.toNat ≤ t.seconds.toNat ∧ s.millis.toNat ≤ t.millis.toNat

/-- R110: `sync2` and the latched drift error count the fast ticks of the second just ended, whatever
other commands fall between them. -/
def Obligations.DriftErrorCountsTheFastTicks : Prop :=
  ∀ (cs : List Instr) (s : State), s.sync2 = 0 → Instr.preciseTick ∉ cs →
    (∃ u, runAll cs s = .next u ∧ u.sync2.toNat = cs.count .fastTick % 2 ^ 16) ∧
    ∃ t, runAll (cs ++ [.preciseTick]) s = .next t ∧
      t.driftError = BitVec.ofInt 16 ((cs.count .fastTick : Int) + 1 - 1000) ∧
      (cs.count .fastTick = 1000 → t.driftError.toInt = 1) ∧
      (cs.count .fastTick = 999 → t.driftError.toInt = 0)

/-- R255: while no PRECISE_TICK comes (and no command writes the time), the seconds stay and `millis`
parks at most 999 above them. -/
def Obligations.ClockStandsWithoutPreciseTicks : Prop :=
  ∀ (cs : List Instr) (s : State), ClockInv s →
    (∀ c ∈ cs, c.opcode ≠ .preciseTick ∧ c.opcode ≠ .setTime ∧ c.opcode ≠ .corrCheck) →
    ∃ t, runAll cs s = .next t ∧ t.seconds = s.seconds ∧
      s.millis.toNat ≤ t.millis.toNat ∧ t.millis.toNat ≤ s.seconds.toNat * 1000 + 999 ∧
      t.sync2.toNat = (s.sync2.toNat + cs.count .fastTick) % 2 ^ 16

/-- R228: a FAST_TICK and a PRECISE_TICK that arrive together, in the two orders. -/
def Obligations.SimultaneousTicksEndInTwoStates : Prop :=
  ∀ s : State, s.sync1 = 998 → s.sync2 = 998 →
    (∃ t, runAll [.fastTick, .preciseTick] s = .next t ∧
      t.millis.toNat = (s.seconds.toNat + 1) % 2 ^ 32 * 1000 ∧ t.sync1 = 0 ∧ t.sync2 = 0 ∧
      t.driftError.toInt = 0) ∧
    (∃ t, runAll [.preciseTick, .fastTick] s = .next t ∧
      t.millis.toNat = (s.seconds.toNat + 1) % 2 ^ 32 * 1000 + 1 ∧ t.sync1 = 1 ∧ t.sync2 = 1 ∧
      t.driftError.toInt = -1)

/-! ### The periodic-event timer (41_periodic.md) -/

/-- R140: the occurrence function. -/
def Obligations.OccurrenceFunction : Prop :=
  ∀ (p : PeriodicEvent) (now : Word64),
    ((p.max ≠ 0 ∧ p.max.toNat ≤ p.count.toNat) → occ p now = (false, p)) ∧
    (¬ (p.max ≠ 0 ∧ p.max.toNat ≤ p.count.toNat) →
      (p.last.toNat + p.delay.toNat ≤ now.toNat →
        (occ p now).1 = true ∧ (occ p now).2.last = now ∧
        (occ p now).2.delay = p.delay ∧ (occ p now).2.max = p.max ∧
        (p.max = 0 → (occ p now).2.count = p.count) ∧
        (p.max ≠ 0 → (occ p now).2.count.toNat = p.count.toNat + 1 ∧
          p.count.toNat + 1 ≤ p.max.toNat)) ∧
      (now.toNat < p.last.toNat + p.delay.toNat → occ p now = (false, p)))

/-- R141: PE_CONFIG. -/
def Obligations.PeConfigCreatesAnArmedEntry : Prop :=
  ∀ (i : Byte) (d : Word32) (m : Byte),
  encode (.peConfig i d m) = 0x20#8 ++ i ++ m ++ 0x00#8 ++ d ∧
  (Instr.peConfig i d m).agent = .host ∧
  ∀ s : State, i.toNat < s.nPE → ∃ t q, exec (.peConfig i d m) s = .next t ∧
    t.entry? i = some q ∧ q.delay = d ∧ q.max = m ∧ q.last = s.millis ∧ q.count = 0 ∧
    q.exhausted = false ∧ SameOtherEntries i s t ∧ SameRtc s t ∧ SameDcf s t ∧
    SameInputs s t ∧ NoDraw s t ∧ Emits [.ack] s t

/-- R142: PE_OCCURRED on an existing entry. -/
def Obligations.PeOccurredPollsTheEntry : Prop :=
  ∀ i : Byte, encode (.peOccurred i) = 0x21#8 ++ i ++ 0x00#8 ++ 0x00#8 ++ 0x00000000#32 ∧
  (Instr.peOccurred i).agent = .host ∧
  ∀ (s : State) (p : PeriodicEvent), s.entry? i = some p →
    (¬ FiresAt p s.millis → ∃ t, exec (.peOccurred i) s = .next t ∧
      SameRtc s t ∧ SamePet s t ∧ SameDcf s t ∧ SameInputs s t ∧ NoDraw s t ∧
      Emits [.fired false] s t) ∧
    (FiresAt p s.millis → ∃ t q, exec (.peOccurred i) s = .next t ∧
      t.entry? i = some q ∧ q.delay = p.delay ∧ q.max = p.max ∧ q.last = s.millis ∧
      q.count.toNat = p.count.toNat + (if p.max = 0 then 0 else 1) ∧
      (q.exhausted = true ↔ p.max ≠ 0 ∧ q.count = p.max) ∧
      SameOtherEntries i s t ∧ SameRtc s t ∧ SameDcf s t ∧ SameInputs s t ∧ NoDraw s t ∧
      Emits [.fired true] s t)

/-- R143: PE_RESET on an existing entry. -/
def Obligations.PeResetRearmsTheEntry : Prop :=
  ∀ i : Byte, encode (.peReset i) = 0x22#8 ++ i ++ 0x00#8 ++ 0x00#8 ++ 0x00000000#32 ∧
  (Instr.peReset i).agent = .host ∧
  ∀ (s : State) (p : PeriodicEvent), s.entry? i = some p → ∃ t q,
    exec (.peReset i) s = .next t ∧
    t.entry? i = some q ∧ q.delay = p.delay ∧ q.max = p.max ∧ q.last = s.millis ∧ q.count = 0 ∧
    q.exhausted = false ∧ SameOtherEntries i s t ∧ SameRtc s t ∧ SameDcf s t ∧
    SameInputs s t ∧ NoDraw s t ∧ Emits [.ack] s t

/-- R144: READ_PE on an existing entry. -/
def Obligations.ReadPeReturnsTheEntry : Prop :=
  ∀ i : Byte, encode (.readPe i) = 0x23#8 ++ i ++ 0x00#8 ++ 0x00#8 ++ 0x00000000#32 ∧
  (Instr.readPe i).agent = .host ∧
  ∀ (s : State) (p : PeriodicEvent), s.entry? i = some p → ∃ t,
    exec (.readPe i) s = .next t ∧
    SameRtc s t ∧ SamePet s t ∧ SameDcf s t ∧ SameInputs s t ∧ NoDraw s t ∧
    Emits [.pestat p.delay p.max p.last p.count] s t

/-- R84 condition 3, R223: a command on an entry the block does not have raises `ILLEGAL` with its
own word and changes nothing else.
What `exec` does on such syntax is the model's reading (log entry 11). -/
def Obligations.MissingEntryIsIllegal : Prop :=
  ∀ (c : Instr) (i : Byte) (s : State), c.index? = some i → s.nPE ≤ i.toNat →
    (∃ e, decode s.nPE (encode c) = .error e) ∧
    exec c s = .next { s with outs := s.outs ++ [.fault (.illegal (encode c))], pc := s.pc + 1 }

/-- R145: after a firing at `now = t`, no poll fires the entry until `millis >= t + delay`; with
delay 0 every poll with `millis >= last` of an entry that is not exhausted fires. -/
def Obligations.EntryFiresOncePerWindow : Prop :=
  (∀ (i : Byte) (c : Instr) (s t : State) (p : PeriodicEvent) (cs : List Instr),
    s.entry? i = some p → firesBy i c s = true → exec c s = .next t →
    cs.all (fun x => !rearms i x) = true →
    staysBelow (s.millis.toNat + p.delay.toNat) cs t →
    firings i cs t = 0) ∧
  (∀ (i : Byte) (s : State) (p : PeriodicEvent),
    s.entry? i = some p → p.exhausted = false → p.delay = 0 →
    p.last.toNat ≤ s.millis.toNat → due i s = true)

/-- R146: after PE_RESET at `millis = r` the entry does not fire while `millis < r + delay`. -/
def Obligations.ResetRestartsTheWindow : Prop :=
  ∀ (i : Byte) (s : State) (p : PeriodicEvent) (cs : List Instr),
    s.entry? i = some p → cs.all (fun x => !rearms i x) = true →
    ∃ t, exec (.peReset i) s = .next t ∧
      (staysBelow (s.millis.toNat + p.delay.toNat) cs t → firings i cs t = 0)

/-- R147: a bounded entry fires at most `max` times between arming commands and is then exhausted;
an unbounded one keeps count 0 and is never exhausted. -/
def Obligations.BoundedEntryFiresAtMostMaxTimes : Prop :=
  ∀ (i : Byte) (s : State) (p : PeriodicEvent) (cs : List Instr),
    s.entry? i = some p → p.count = 0 → cs.all (fun x => !rearms i x) = true →
    ∃ t q, runAll cs s = .next t ∧ t.entry? i = some q ∧ q.max = p.max ∧
      (p.max ≠ 0 → firings i cs s = q.count.toNat ∧ q.count.toNat ≤ p.max.toNat) ∧
      (p.max = 0 → q.count = 0 ∧ q.exhausted = false) ∧
      (p.max ≠ 0 → firings i cs s = p.max.toNat → due i t = false)

/-- R148: a SET_TIME or a CORR_CHECK on another entry re-arms nothing, and the entry stays silent
until `millis >= last + delay`. -/
def Obligations.BackwardTimeStallsEntries : Prop :=
  ∀ (i : Byte) (c : Instr) (s t : State) (p : PeriodicEvent) (cs : List Instr),
    s.entry? i = some p → ((∃ v, c = .setTime v) ∨ ∃ k, k ≠ i ∧ c = .corrCheck k) →
    exec c s = .next t → t.entry? i = some p ∧
      (cs.all (fun x => !rearms i x) = true →
        staysBelow (p.last.toNat + p.delay.toNat) cs t →
        firings i cs t = 0 ∧ ∃ u, runAll cs t = .next u ∧ u.entry? i = some p)

/-- R149: the k-th firing of an entry armed at `millis = a` and not re-armed happens at
`millis >= a + k * delay`, and sets `last` to the time of that step. -/
def Obligations.FiringsNeverRunAhead : Prop :=
  ∀ (i : Byte) (s u : State) (p : PeriodicEvent) (cs : List Instr) (c : Instr),
    s.entry? i = some p → cs.all (fun x => !rearms i x) = true →
    runAll cs s = .next u → firesBy i c u = true →
    p.last.toNat + (firings i cs s + 1) * p.delay.toNat ≤ u.millis.toNat ∧
    ∃ t q, exec c u = .next t ∧ t.entry? i = some q ∧ q.last = u.millis

/-! ### The DCF77 decoder (42_dcf.md) -/

/-- R170: the five classes of an edge duration. -/
def Obligations.EdgeBands : Prop :=
  ∀ e : Word32,
    (band e = .ignored ↔ e.toNat ≤ 30) ∧
    (band e = .zero ↔ 50 ≤ e.toNat ∧ e.toNat ≤ 149) ∧
    (band e = .one ↔ 150 ≤ e.toNat ∧ e.toNat ≤ 300) ∧
    (band e = .gap ↔ 1500 < e.toNat) ∧
    (band e = .noise ↔ (31 ≤ e.toNat ∧ e.toNat ≤ 49) ∨ (301 ≤ e.toNat ∧ e.toNat ≤ 1500))

/-- R172, R173, R180: the edges that change nothing and emit nothing. -/
def Obligations.EdgesWithoutEffect : Prop :=
  ∀ (e : Word32) (level : Bool) (s : State),
    (s.enabled = false ∨ e.toNat ≤ 30 ∨
      (s.streaming = false ∧
        ((31 ≤ e.toNat ∧ e.toNat ≤ 49) ∨ (301 ≤ e.toNat ∧ e.toNat ≤ 1500)))) →
    exec (.dcfEdge e level) s = .next { s with pc := s.pc + 1 }

/-- R174: a frame gap while idle starts streaming. -/
def Obligations.GapWhileIdleStartsStreaming : Prop :=
  ∀ (e : Word32) (level : Bool) (s : State),
    s.enabled = true → s.streaming = false → 1500 < e.toNat →
    ∃ t, exec (.dcfEdge e level) s = .next t ∧
      t.streaming = true ∧ t.cursor = 0 ∧ t.buf = 0 ∧ t.enabled = s.enabled ∧
      SameRtc s t ∧ SamePet s t ∧ SameInputs s t ∧ NoDraw s t ∧ Emits [] s t

/-- R175: a frame gap while streaming ends the frame. -/
def Obligations.GapWhileStreamingEndsTheFrame : Prop :=
  ∀ (e : Word32) (level : Bool) (s : State),
    s.enabled = true → s.streaming = true → 1500 < e.toNat →
    ∃ t, exec (.dcfEdge e level) s = .next t ∧
      t.streaming = false ∧ t.cursor = 0 ∧ t.buf = s.buf ∧ t.enabled = s.enabled ∧
      SameRtc s t ∧ SamePet s t ∧ SameInputs s t ∧ NoDraw s t ∧
      (s.cursor.val = 60 → Emits [decodeRecord s.buf] s t) ∧
      (s.cursor.val ≠ 60 → ∃ n : BitVec 6, n.toNat = s.cursor.val ∧
        Emits [.frameCountErr n] s t)

/-- R176: a short pulse at the active level while streaming takes one bit. -/
def Obligations.ActivePulseTakesOneBit : Prop :=
  ∀ (e : Word32) (v : Bool) (s : State),
    s.enabled = true → s.streaming = true →
    (v = false ∧ 50 ≤ e.toNat ∧ e.toNat ≤ 149 ∨ v = true ∧ 150 ≤ e.toNat ∧ e.toNat ≤ 300) →
    ∃ t, exec (.dcfEdge e false) s = .next t ∧
      t.cursor.val = min (s.cursor.val + 1) 61 ∧
      (∀ k, k < 60 → t.buf.getLsbD k = if k = s.cursor.val then v else s.buf.getLsbD k) ∧
      t.streaming = true ∧ t.enabled = s.enabled ∧
      SameRtc s t ∧ SamePet s t ∧ SameInputs s t ∧ NoDraw s t ∧ Emits [.bitOk v] s t

/-- R177: a short pulse at the inactive level while streaming. -/
def Obligations.InactivePulseOnlyReports : Prop :=
  ∀ (e : Word32) (s : State),
    s.enabled = true → s.streaming = true → 50 ≤ e.toNat → e.toNat ≤ 300 →
    exec (.dcfEdge e true) s =
      .next { s with outs := s.outs ++ [.bitFail], pc := s.pc + 1 }

/-- R178: a short pulse while idle changes no state, and reports by the draw; one free value is
used.  It holds for both values of the draw.
The counter of free values is the model's (log entry 1). -/
def Obligations.IdlePulseReportsByTheDraw : Prop :=
  ∀ (e : Word32) (level : Bool) (s : State),
    s.enabled = true → s.streaming = false → 50 ≤ e.toNat → e.toNat ≤ 300 →
    (∀ d : Bool, edgeEffect d e level s =
      { s with outs := s.outs ++ (if d then [.bitFail] else []),
               freeIndex := s.freeIndex + 1 }) ∧
    ∃ (d : Bool) (t : State), exec (.dcfEdge e level) s = .next t ∧
      SameRtc s t ∧ SamePet s t ∧ SameDcf s t ∧ SameInputs s t ∧
      t.freeIndex = s.freeIndex + 1 ∧ Emits (if d then [.bitFail] else []) s t

/-- R179: a noise edge while streaming aborts the frame, at either level. -/
def Obligations.NoiseWhileStreamingAborts : Prop :=
  ∀ (e : Word32) (level : Bool) (s : State),
    s.enabled = true → s.streaming = true →
    ((31 ≤ e.toNat ∧ e.toNat ≤ 49) ∨ (301 ≤ e.toNat ∧ e.toNat ≤ 1500)) →
    ∃ t, exec (.dcfEdge e level) s = .next t ∧
      t.streaming = false ∧ t.cursor = 0 ∧ t.buf = s.buf ∧ t.enabled = s.enabled ∧
      SameRtc s t ∧ SamePet s t ∧ SameInputs s t ∧ NoDraw s t ∧ Emits [.bitFail] s t

/-- R181 to R183: the decoded fields are the weighted sums, none of them cut, and the frame is valid
exactly when the three parities pass. -/
def Obligations.FrameDecodeAndParity : Prop :=
  ∀ b : Telegram,
    let x := fun k => (b.getLsbD k).toNat
    let ones := fun lo n => ((List.range n).map fun k => x (lo + k)).sum
    let pm := x 28 = ones 21 7 % 2
    let ph := x 35 = ones 29 6 % 2
    let pd := x 58 = ones 36 22 % 2
    ((pm ∧ ph ∧ pd) → ∃ mi h d mo y, decodeRecord b = .frameOk mi h d mo y ∧
      mi.toNat = x 21 + 2 * x 22 + 4 * x 23 + 8 * x 24 + 10 * x 25 + 20 * x 26 + 40 * x 27 ∧
      h.toNat = x 29 + 2 * x 30 + 4 * x 31 + 8 * x 32 + 10 * x 33 + 20 * x 34 ∧
      d.toNat = x 36 + 2 * x 37 + 4 * x 38 + 8 * x 39 + 10 * x 40 + 20 * x 41 ∧
      mo.toNat = x 45 + 2 * x 46 + 4 * x 47 + 8 * x 48 + 10 * x 49 ∧
      y.toNat = x 50 + 2 * x 51 + 4 * x 52 + 8 * x 53 + 10 * x 54 + 20 * x 55 + 40 * x 56 +
        80 * x 57) ∧
    (¬ (pm ∧ ph ∧ pd) → ∃ bm bh bd, decodeRecord b = .frameParityErr bm bh bd ∧
      (bm = true ↔ pm) ∧ (bh = true ↔ ph) ∧ (bd = true ↔ pd))

/-- R184: DCF_ON. -/
def Obligations.DcfOnEnablesAndGoesIdle : Prop :=
  encode .dcfOn = 0x1100000000000000#64 ∧ Instr.dcfOn.agent = .host ∧
  ∀ s : State, ∃ t, exec .dcfOn s = .next t ∧
    t.enabled = true ∧ t.streaming = false ∧ t.cursor = 0 ∧ t.buf = s.buf ∧
    SameRtc s t ∧ SamePet s t ∧ SameInputs s t ∧ NoDraw s t ∧ Emits [.ack] s t

/-- R185: DCF_OFF. -/
def Obligations.DcfOffDisablesAndGoesIdle : Prop :=
  encode .dcfOff = 0x1200000000000000#64 ∧ Instr.dcfOff.agent = .host ∧
  ∀ s : State, ∃ t, exec .dcfOff s = .next t ∧
    t.enabled = false ∧ t.streaming = false ∧ t.cursor = 0 ∧ t.buf = s.buf ∧
    SameRtc s t ∧ SamePet s t ∧ SameInputs s t ∧ NoDraw s t ∧ Emits [.ack] s t

/-- R186: READ_DCF. -/
def Obligations.ReadDcfReturnsTheBuffer : Prop :=
  encode .readDcf = 0x1300000000000000#64 ∧ Instr.readDcf.agent = .host ∧
  ∀ s : State, ∃ t, ∃ n : BitVec 6, exec .readDcf s = .next t ∧ n.toNat = s.cursor.val ∧
    SameRtc s t ∧ SamePet s t ∧ SameDcf s t ∧ SameInputs s t ∧ NoDraw s t ∧
    Emits [.dcfstat s.enabled s.streaming n s.buf] s t

/-- R187: only a frame gap while idle starts streaming, a frame gap while streaming always ends it,
and a frame is decoded only by such a gap at cursor 60. -/
def Obligations.FramesAlternate : Prop :=
  ∀ (i : Instr) (s t : State), exec i s = .next t →
    (s.streaming = false → t.streaming = true →
      s.enabled = true ∧ ∃ e level, i = .dcfEdge e level ∧ 1500 < e.toNat) ∧
    (∀ e level, i = .dcfEdge e level → 1500 < e.toNat → s.enabled = true →
      t.streaming = !s.streaming) ∧
    (∀ r, t.outs = s.outs ++ [r] →
      ((∃ mi h d mo y, r = .frameOk mi h d mo y) ∨ (∃ a b c, r = .frameParityErr a b c)) →
      s.streaming = true ∧ s.cursor.val = 60 ∧ t.streaming = false ∧
        ∃ e level, i = .dcfEdge e level ∧ 1500 < e.toNat)

/-- R175, R176, R188 to R190: a whole frame, from a gap while idle over any short pulses at the
active level to the next gap.  Exactly 60 pulses are decoded, bit `k` from the k-th pulse; any other
number, 59 and more than 60 among them, is a count error; the buffer's old contents do not matter. -/
def Obligations.WholeFrameDecodesItsSixtyPulses : Prop :=
  ∀ (s : State) (g₁ g₂ : Word32) (l₁ l₂ : Bool) (bs : List Bool) (es : List Word32),
    s.enabled = true → s.streaming = false → 1500 < g₁.toNat → 1500 < g₂.toNat →
    List.Forall₂ IsPulse bs es →
    ∃ t, runAll ([.dcfEdge g₁ l₁] ++ es.map (.dcfEdge · false) ++ [.dcfEdge g₂ l₂]) s = .next t ∧
      t.streaming = false ∧ t.cursor = 0 ∧ t.enabled = true ∧ t.buf = telegramOf bs ∧
      t.outs = s.outs ++ bs.map .bitOk ++
        [if bs.length = 60 then decodeRecord (telegramOf bs)
         else .frameCountErr (BitVec.ofNat 6 (min bs.length 61))] ∧
      SameRtc s t ∧ SamePet s t ∧ t.pc = s.pc + bs.length + 2

/-! ### Whole-machine rules -/

/-- 10_state.md section 1, R26 to R29: which commands may write each register, and that a command on
one entry leaves every other entry alone. -/
def Obligations.OnlyTheListedCommandsWriteEachRegister : Prop :=
  ∀ (i : Instr) (s t : State), exec i s = .next t →
    (t.millis ≠ s.millis → i.opcode ∈ [.fastTick, .preciseTick, .setTime, .corrCheck]) ∧
    (t.seconds ≠ s.seconds → i.opcode ∈ [.preciseTick, .setTime, .corrCheck]) ∧
    (t.sync1 ≠ s.sync1 → i.opcode ∈ [.fastTick, .preciseTick]) ∧
    (t.sync2 ≠ s.sync2 → i.opcode ∈ [.fastTick, .preciseTick]) ∧
    (t.driftError ≠ s.driftError → i.opcode = .preciseTick) ∧
    (t.enabled ≠ s.enabled → i.opcode ∈ [.dcfOn, .dcfOff]) ∧
    (t.streaming ≠ s.streaming → i.opcode ∈ [.dcfEdge, .dcfOn, .dcfOff]) ∧
    (t.cursor ≠ s.cursor → i.opcode ∈ [.dcfEdge, .dcfOn, .dcfOff]) ∧
    (t.buf ≠ s.buf → i.opcode = .dcfEdge) ∧
    t.nPE = s.nPE ∧
    (∀ (k : Byte) (p q : PeriodicEvent), s.entry? k = some p → t.entry? k = some q →
      (q ≠ p → i.index? = some k) ∧
      (q.delay ≠ p.delay ∨ q.max ≠ p.max → i.opcode = .peConfig) ∧
      (q.last ≠ p.last ∨ q.count ≠ p.count →
        i.opcode ∈ [.peConfig, .peOccurred, .peReset, .corrCheck])) ∧
    SameInputs s t

/-- R85: how many records each command emits, and which command each record comes from.
The clause on `ILLEGAL` (own word, only for a missing entry) is no clause of R85: it rests on what
`exec` does on syntax that does not decode, the model's reading of R84 and R223 (log entry 11).
That earlier records stand in the state is the model's choice (log entry 5). -/
def Obligations.RecordsOfEachCommand : Prop :=
  ∀ (i : Instr) (s t : State), exec i s = .next t →
    ∃ rs, t.outs = s.outs ++ rs ∧
      (i.agent = .host → rs.length = 1) ∧
      (i = .fastTick ∨ i = .preciseTick → rs = []) ∧
      (i.opcode = .dcfEdge → rs.length ≤ 1) ∧
      (∀ r ∈ rs,
        match r with
        | .ack => i.opcode ∈ [.setTime, .dcfOn, .dcfOff, .peConfig, .peReset]
        | .time _ _ => i.opcode = .readTime
        | .diag _ _ _ => i.opcode = .readDiag
        | .dcfstat _ _ _ _ => i.opcode = .readDcf
        | .pestat _ _ _ _ => i.opcode = .readPe
        | .fired _ => i.opcode = .peOccurred
        | .corr _ => i.opcode = .corrCheck
        | .bitOk _ => i.opcode = .dcfEdge
        | .bitFail => i.opcode = .dcfEdge
        | .frameOk _ _ _ _ _ => i.opcode = .dcfEdge
        | .frameParityErr _ _ _ => i.opcode = .dcfEdge
        | .frameCountErr _ => i.opcode = .dcfEdge
        | .fault (.illegal w) => w = encode i ∧ ∃ k, i.index? = some k ∧ s.nPE ≤ k.toNat
        | .fault .corrUnderflow => i.opcode = .corrCheck ∧ s.seconds = 0)

/-- R221: a faulting step changes nothing but the trace position (and consumes its event) and emits
that one record; the record is kept, so the run is never a good one again.
The free value the arbiter uses and the kept records are the model's (log entries 2 and 5). -/
def Obligations.FaultsChangeNothingElse : Prop :=
  (∀ (s t : State) (c : FaultCause), s.resetAsserted = false → step s = .next t →
    t.outs = s.outs ++ [.fault c] →
    ∃ a w, s.nextEvent = some (a, w) ∧
      t = { s.takeEvent a with outs := s.outs ++ [.fault c], pc := s.pc + 1 }) ∧
  (∀ s t : State, step s = .next t → s.faultFree = false → t.faultFree = false)

/-- R63: repeated writes give the same state, reads change nothing and return equal records, a second
poll with no step between does not fire again unless the delay is 0, and a second correction check
after one that fired does not fire. -/
def Obligations.RepeatedCommands : Prop :=
  (∀ (i : Instr) (s t u : State),
    i.opcode ∈ [.setTime, .peConfig, .peReset, .dcfOn, .dcfOff] →
    exec i s = .next t → exec i t = .next u →
    SameRtc t u ∧ SamePet t u ∧ SameDcf t u) ∧
  (∀ (i : Instr) (s t u : State),
    i.opcode ∈ [.readTime, .readDiag, .readDcf, .readPe] →
    exec i s = .next t → exec i t = .next u →
    SameRtc s t ∧ SamePet s t ∧ SameDcf s t ∧
      ∃ r, t.outs = s.outs ++ [r] ∧ u.outs = t.outs ++ [r]) ∧
  (∀ (i : Byte) (s t u : State) (p : PeriodicEvent),
    s.entry? i = some p → p.delay ≠ 0 →
    exec (.peOccurred i) s = .next t → exec (.peOccurred i) t = .next u →
    u.outs = t.outs ++ [.fired false]) ∧
  (∀ (i : Byte) (s t u : State) (p : PeriodicEvent),
    ClockInv s → s.entry? i = some p →
    exec (.corrCheck i) s = .next t → t.outs = s.outs ++ [.corr true] →
    exec (.corrCheck i) t = .next u → u.outs = t.outs ++ [.corr false])

/-- R87, R253: the pseudo-instruction DCF_APPLY, run with nothing between its commands, sets the
clock, turns the decoder off and re-arms every entry from the new time.
See log entry 17. -/
def Obligations.DcfApplySetsTheClockAndRearmsAll : Prop :=
  ∀ (v : Word32) (s : State), s.nPE ≤ 256 →
    ∃ t, runAll ((Pseudo.dcfApply v).expand s.nPE) s = .next t ∧
      t.seconds = v ∧ t.millis.toNat = v.toNat * 1000 ∧ t.enabled = false ∧
      t.streaming = false ∧ t.cursor = 0 ∧ t.nPE = s.nPE ∧
      (∀ (k : Byte) (p : PeriodicEvent), s.entry? k = some p →
        ∃ q, t.entry? k = some q ∧ q.delay = p.delay ∧ q.max = p.max ∧ q.count = 0 ∧
          q.last.toNat = v.toNat * 1000)

/-- R251: after the boot sequence with a known time, every polled entry and the correction entry are
armed from that time.
The delay is a free value (log entry 4); see log entry 17. -/
def Obligations.BootArmsEntriesFromTheSetTime : Prop :=
  ∀ (v : Word32) (polled : List (Byte × Word32 × Byte)) (corr : Byte) (radio : Bool) (s : State),
    ∃ t, runAll (bootSequence (some v) polled corr radio) s = .next t ∧
      t.seconds = v ∧ t.millis.toNat = v.toNat * 1000 ∧
      (radio = true → t.enabled = true) ∧
      (∀ k ∈ corr :: polled.map (fun x => x.1), ∀ q, t.entry? k = some q →
        q.last.toNat = v.toNat * 1000 ∧ q.count = 0) ∧
      (∀ q, t.entry? corr = some q → q.max = 1 ∧ q.delay = Config.pCorrDelayMs)

/-! ### Invariants -/

/-- The invariant holds at reset, for every legal `N_PE` (R250, R106, R147). -/
def Obligations.InvariantHoldsAtReset : Prop :=
  (∀ n, 1 ≤ n → n ≤ 256 → Inv (State.resetWith n)) ∧ Inv State.reset

/-- Every step keeps the invariant: the clock relation (R106), the counts of the entries (R147) and
the decoder's mode, cursor and buffer (R174 to R179, R184, R185). -/
def Obligations.EveryStepKeepsTheInvariant : Prop :=
  ∀ s t : State, Inv s → step s = .next t → Inv t
end

