-- ==== Sys2Proof/Laws/State.lean ====
section
/-! SUPPORT. One lemma per field of `State` and shared update, true by `rfl`. -/

namespace Sys2Proof.Machine

/-! ### `State.advance` -/

@[simp] theorem advance_pc (s : State) :
    s.advance.pc = s.pc + 1 := rfl
@[simp] theorem advance_millis (s : State) :
    s.advance.millis = s.millis := rfl
@[simp] theorem advance_seconds (s : State) :
    s.advance.seconds = s.seconds := rfl
@[simp] theorem advance_sync1 (s : State) :
    s.advance.sync1 = s.sync1 := rfl
@[simp] theorem advance_sync2 (s : State) :
    s.advance.sync2 = s.sync2 := rfl
@[simp] theorem advance_driftError (s : State) :
    s.advance.driftError = s.driftError := rfl
@[simp] theorem advance_pe (s : State) :
    s.advance.pe = s.pe := rfl
@[simp] theorem advance_enabled (s : State) :
    s.advance.enabled = s.enabled := rfl
@[simp] theorem advance_streaming (s : State) :
    s.advance.streaming = s.streaming := rfl
@[simp] theorem advance_cursor (s : State) :
    s.advance.cursor = s.cursor := rfl
@[simp] theorem advance_buf (s : State) :
    s.advance.buf = s.buf := rfl
@[simp] theorem advance_pending (s : State) :
    s.advance.pending = s.pending := rfl
@[simp] theorem advance_outs (s : State) :
    s.advance.outs = s.outs := rfl
@[simp] theorem advance_freeIndex (s : State) :
    s.advance.freeIndex = s.freeIndex := rfl
@[simp] theorem advance_resetAsserted (s : State) :
    s.advance.resetAsserted = s.resetAsserted := rfl

/-! ### `State.emit` -/

@[simp] theorem emit_pc (s : State) (r : Record) :
    (s.emit r).pc = s.pc := rfl
@[simp] theorem emit_millis (s : State) (r : Record) :
    (s.emit r).millis = s.millis := rfl
@[simp] theorem emit_seconds (s : State) (r : Record) :
    (s.emit r).seconds = s.seconds := rfl
@[simp] theorem emit_sync1 (s : State) (r : Record) :
    (s.emit r).sync1 = s.sync1 := rfl
@[simp] theorem emit_sync2 (s : State) (r : Record) :
    (s.emit r).sync2 = s.sync2 := rfl
@[simp] theorem emit_driftError (s : State) (r : Record) :
    (s.emit r).driftError = s.driftError := rfl
@[simp] theorem emit_pe (s : State) (r : Record) :
    (s.emit r).pe = s.pe := rfl
@[simp] theorem emit_enabled (s : State) (r : Record) :
    (s.emit r).enabled = s.enabled := rfl
@[simp] theorem emit_streaming (s : State) (r : Record) :
    (s.emit r).streaming = s.streaming := rfl
@[simp] theorem emit_cursor (s : State) (r : Record) :
    (s.emit r).cursor = s.cursor := rfl
@[simp] theorem emit_buf (s : State) (r : Record) :
    (s.emit r).buf = s.buf := rfl
@[simp] theorem emit_pending (s : State) (r : Record) :
    (s.emit r).pending = s.pending := rfl
@[simp] theorem emit_outs (s : State) (r : Record) :
    (s.emit r).outs = s.outs ++ [r] := rfl
@[simp] theorem emit_freeIndex (s : State) (r : Record) :
    (s.emit r).freeIndex = s.freeIndex := rfl
@[simp] theorem emit_resetAsserted (s : State) (r : Record) :
    (s.emit r).resetAsserted = s.resetAsserted := rfl

/-! ### `State.setClock` -/

@[simp] theorem setClock_pc (s : State) (v : Word32) :
    (s.setClock v).pc = s.pc := rfl
@[simp] theorem setClock_millis (s : State) (v : Word32) :
    (s.setClock v).millis = anchorOf v := rfl
@[simp] theorem setClock_seconds (s : State) (v : Word32) :
    (s.setClock v).seconds = v := rfl
@[simp] theorem setClock_sync1 (s : State) (v : Word32) :
    (s.setClock v).sync1 = s.sync1 := rfl
@[simp] theorem setClock_sync2 (s : State) (v : Word32) :
    (s.setClock v).sync2 = s.sync2 := rfl
@[simp] theorem setClock_driftError (s : State) (v : Word32) :
    (s.setClock v).driftError = s.driftError := rfl
@[simp] theorem setClock_pe (s : State) (v : Word32) :
    (s.setClock v).pe = s.pe := rfl
@[simp] theorem setClock_enabled (s : State) (v : Word32) :
    (s.setClock v).enabled = s.enabled := rfl
@[simp] theorem setClock_streaming (s : State) (v : Word32) :
    (s.setClock v).streaming = s.streaming := rfl
@[simp] theorem setClock_cursor (s : State) (v : Word32) :
    (s.setClock v).cursor = s.cursor := rfl
@[simp] theorem setClock_buf (s : State) (v : Word32) :
    (s.setClock v).buf = s.buf := rfl
@[simp] theorem setClock_pending (s : State) (v : Word32) :
    (s.setClock v).pending = s.pending := rfl
@[simp] theorem setClock_outs (s : State) (v : Word32) :
    (s.setClock v).outs = s.outs := rfl
@[simp] theorem setClock_freeIndex (s : State) (v : Word32) :
    (s.setClock v).freeIndex = s.freeIndex := rfl
@[simp] theorem setClock_resetAsserted (s : State) (v : Word32) :
    (s.setClock v).resetAsserted = s.resetAsserted := rfl

/-! ### `State.setEntry` -/

@[simp] theorem setEntry_pc (s : State) (i : Byte) (p : PeriodicEvent) :
    (s.setEntry i p).pc = s.pc := rfl
@[simp] theorem setEntry_millis (s : State) (i : Byte) (p : PeriodicEvent) :
    (s.setEntry i p).millis = s.millis := rfl
@[simp] theorem setEntry_seconds (s : State) (i : Byte) (p : PeriodicEvent) :
    (s.setEntry i p).seconds = s.seconds := rfl
@[simp] theorem setEntry_sync1 (s : State) (i : Byte) (p : PeriodicEvent) :
    (s.setEntry i p).sync1 = s.sync1 := rfl
@[simp] theorem setEntry_sync2 (s : State) (i : Byte) (p : PeriodicEvent) :
    (s.setEntry i p).sync2 = s.sync2 := rfl
@[simp] theorem setEntry_driftError (s : State) (i : Byte) (p : PeriodicEvent) :
    (s.setEntry i p).driftError = s.driftError := rfl
@[simp] theorem setEntry_pe (s : State) (i : Byte) (p : PeriodicEvent) :
    (s.setEntry i p).pe = s.pe.set i.toNat p := rfl
@[simp] theorem setEntry_enabled (s : State) (i : Byte) (p : PeriodicEvent) :
    (s.setEntry i p).enabled = s.enabled := rfl
@[simp] theorem setEntry_streaming (s : State) (i : Byte) (p : PeriodicEvent) :
    (s.setEntry i p).streaming = s.streaming := rfl
@[simp] theorem setEntry_cursor (s : State) (i : Byte) (p : PeriodicEvent) :
    (s.setEntry i p).cursor = s.cursor := rfl
@[simp] theorem setEntry_buf (s : State) (i : Byte) (p : PeriodicEvent) :
    (s.setEntry i p).buf = s.buf := rfl
@[simp] theorem setEntry_pending (s : State) (i : Byte) (p : PeriodicEvent) :
    (s.setEntry i p).pending = s.pending := rfl
@[simp] theorem setEntry_outs (s : State) (i : Byte) (p : PeriodicEvent) :
    (s.setEntry i p).outs = s.outs := rfl
@[simp] theorem setEntry_freeIndex (s : State) (i : Byte) (p : PeriodicEvent) :
    (s.setEntry i p).freeIndex = s.freeIndex := rfl
@[simp] theorem setEntry_resetAsserted (s : State) (i : Byte) (p : PeriodicEvent) :
    (s.setEntry i p).resetAsserted = s.resetAsserted := rfl

/-! ### `State.goIdle` -/

@[simp] theorem goIdle_pc (s : State) :
    s.goIdle.pc = s.pc := rfl
@[simp] theorem goIdle_millis (s : State) :
    s.goIdle.millis = s.millis := rfl
@[simp] theorem goIdle_seconds (s : State) :
    s.goIdle.seconds = s.seconds := rfl
@[simp] theorem goIdle_sync1 (s : State) :
    s.goIdle.sync1 = s.sync1 := rfl
@[simp] theorem goIdle_sync2 (s : State) :
    s.goIdle.sync2 = s.sync2 := rfl
@[simp] theorem goIdle_driftError (s : State) :
    s.goIdle.driftError = s.driftError := rfl
@[simp] theorem goIdle_pe (s : State) :
    s.goIdle.pe = s.pe := rfl
@[simp] theorem goIdle_enabled (s : State) :
    s.goIdle.enabled = s.enabled := rfl
@[simp] theorem goIdle_streaming (s : State) :
    s.goIdle.streaming = false := rfl
@[simp] theorem goIdle_cursor (s : State) :
    s.goIdle.cursor = 0 := rfl
@[simp] theorem goIdle_buf (s : State) :
    s.goIdle.buf = s.buf := rfl
@[simp] theorem goIdle_pending (s : State) :
    s.goIdle.pending = s.pending := rfl
@[simp] theorem goIdle_outs (s : State) :
    s.goIdle.outs = s.outs := rfl
@[simp] theorem goIdle_freeIndex (s : State) :
    s.goIdle.freeIndex = s.freeIndex := rfl
@[simp] theorem goIdle_resetAsserted (s : State) :
    s.goIdle.resetAsserted = s.resetAsserted := rfl

/-! ### `State.useFree` -/

@[simp] theorem useFree_pc (s : State) :
    s.useFree.pc = s.pc := rfl
@[simp] theorem useFree_millis (s : State) :
    s.useFree.millis = s.millis := rfl
@[simp] theorem useFree_seconds (s : State) :
    s.useFree.seconds = s.seconds := rfl
@[simp] theorem useFree_sync1 (s : State) :
    s.useFree.sync1 = s.sync1 := rfl
@[simp] theorem useFree_sync2 (s : State) :
    s.useFree.sync2 = s.sync2 := rfl
@[simp] theorem useFree_driftError (s : State) :
    s.useFree.driftError = s.driftError := rfl
@[simp] theorem useFree_pe (s : State) :
    s.useFree.pe = s.pe := rfl
@[simp] theorem useFree_enabled (s : State) :
    s.useFree.enabled = s.enabled := rfl
@[simp] theorem useFree_streaming (s : State) :
    s.useFree.streaming = s.streaming := rfl
@[simp] theorem useFree_cursor (s : State) :
    s.useFree.cursor = s.cursor := rfl
@[simp] theorem useFree_buf (s : State) :
    s.useFree.buf = s.buf := rfl
@[simp] theorem useFree_pending (s : State) :
    s.useFree.pending = s.pending := rfl
@[simp] theorem useFree_outs (s : State) :
    s.useFree.outs = s.outs := rfl
@[simp] theorem useFree_freeIndex (s : State) :
    s.useFree.freeIndex = s.freeIndex + 1 := rfl
@[simp] theorem useFree_resetAsserted (s : State) :
    s.useFree.resetAsserted = s.resetAsserted := rfl

/-! ### `State.countTick` -/

@[simp] theorem countTick_pc (s : State) :
    s.countTick.pc = s.pc := rfl
@[simp] theorem countTick_millis (s : State) :
    s.countTick.millis = s.millis := rfl
@[simp] theorem countTick_seconds (s : State) :
    s.countTick.seconds = s.seconds := rfl
@[simp] theorem countTick_sync1 (s : State) :
    s.countTick.sync1 = s.sync1 := rfl
@[simp] theorem countTick_sync2 (s : State) :
    s.countTick.sync2 = s.sync2 + 1 := rfl
@[simp] theorem countTick_driftError (s : State) :
    s.countTick.driftError = s.driftError := rfl
@[simp] theorem countTick_pe (s : State) :
    s.countTick.pe = s.pe := rfl
@[simp] theorem countTick_enabled (s : State) :
    s.countTick.enabled = s.enabled := rfl
@[simp] theorem countTick_streaming (s : State) :
    s.countTick.streaming = s.streaming := rfl
@[simp] theorem countTick_cursor (s : State) :
    s.countTick.cursor = s.cursor := rfl
@[simp] theorem countTick_buf (s : State) :
    s.countTick.buf = s.buf := rfl
@[simp] theorem countTick_pending (s : State) :
    s.countTick.pending = s.pending := rfl
@[simp] theorem countTick_outs (s : State) :
    s.countTick.outs = s.outs := rfl
@[simp] theorem countTick_freeIndex (s : State) :
    s.countTick.freeIndex = s.freeIndex := rfl
@[simp] theorem countTick_resetAsserted (s : State) :
    s.countTick.resetAsserted = s.resetAsserted := rfl

/-! ### `State.latchDrift` -/

@[simp] theorem latchDrift_pc (s : State) :
    s.latchDrift.pc = s.pc := rfl
@[simp] theorem latchDrift_millis (s : State) :
    s.latchDrift.millis = s.millis := rfl
@[simp] theorem latchDrift_seconds (s : State) :
    s.latchDrift.seconds = s.seconds := rfl
@[simp] theorem latchDrift_sync1 (s : State) :
    s.latchDrift.sync1 = s.sync1 := rfl
@[simp] theorem latchDrift_sync2 (s : State) :
    s.latchDrift.sync2 = s.sync2 := rfl
@[simp] theorem latchDrift_driftError (s : State) :
    s.latchDrift.driftError = s.sync2 + 1 - Config.errNominal := rfl
@[simp] theorem latchDrift_pe (s : State) :
    s.latchDrift.pe = s.pe := rfl
@[simp] theorem latchDrift_enabled (s : State) :
    s.latchDrift.enabled = s.enabled := rfl
@[simp] theorem latchDrift_streaming (s : State) :
    s.latchDrift.streaming = s.streaming := rfl
@[simp] theorem latchDrift_cursor (s : State) :
    s.latchDrift.cursor = s.cursor := rfl
@[simp] theorem latchDrift_buf (s : State) :
    s.latchDrift.buf = s.buf := rfl
@[simp] theorem latchDrift_pending (s : State) :
    s.latchDrift.pending = s.pending := rfl
@[simp] theorem latchDrift_outs (s : State) :
    s.latchDrift.outs = s.outs := rfl
@[simp] theorem latchDrift_freeIndex (s : State) :
    s.latchDrift.freeIndex = s.freeIndex := rfl
@[simp] theorem latchDrift_resetAsserted (s : State) :
    s.latchDrift.resetAsserted = s.resetAsserted := rfl

/-! ### `State.clearSync` -/

@[simp] theorem clearSync_pc (s : State) :
    s.clearSync.pc = s.pc := rfl
@[simp] theorem clearSync_millis (s : State) :
    s.clearSync.millis = s.millis := rfl
@[simp] theorem clearSync_seconds (s : State) :
    s.clearSync.seconds = s.seconds := rfl
@[simp] theorem clearSync_sync1 (s : State) :
    s.clearSync.sync1 = 0 := rfl
@[simp] theorem clearSync_sync2 (s : State) :
    s.clearSync.sync2 = 0 := rfl
@[simp] theorem clearSync_driftError (s : State) :
    s.clearSync.driftError = s.driftError := rfl
@[simp] theorem clearSync_pe (s : State) :
    s.clearSync.pe = s.pe := rfl
@[simp] theorem clearSync_enabled (s : State) :
    s.clearSync.enabled = s.enabled := rfl
@[simp] theorem clearSync_streaming (s : State) :
    s.clearSync.streaming = s.streaming := rfl
@[simp] theorem clearSync_cursor (s : State) :
    s.clearSync.cursor = s.cursor := rfl
@[simp] theorem clearSync_buf (s : State) :
    s.clearSync.buf = s.buf := rfl
@[simp] theorem clearSync_pending (s : State) :
    s.clearSync.pending = s.pending := rfl
@[simp] theorem clearSync_outs (s : State) :
    s.clearSync.outs = s.outs := rfl
@[simp] theorem clearSync_freeIndex (s : State) :
    s.clearSync.freeIndex = s.freeIndex := rfl
@[simp] theorem clearSync_resetAsserted (s : State) :
    s.clearSync.resetAsserted = s.resetAsserted := rfl

/-! ### `State.takeEvent` -/

@[simp] theorem takeEvent_pc (s : State) (a : Agent) :
    (s.takeEvent a).pc = s.pc := rfl
@[simp] theorem takeEvent_millis (s : State) (a : Agent) :
    (s.takeEvent a).millis = s.millis := rfl
@[simp] theorem takeEvent_seconds (s : State) (a : Agent) :
    (s.takeEvent a).seconds = s.seconds := rfl
@[simp] theorem takeEvent_sync1 (s : State) (a : Agent) :
    (s.takeEvent a).sync1 = s.sync1 := rfl
@[simp] theorem takeEvent_sync2 (s : State) (a : Agent) :
    (s.takeEvent a).sync2 = s.sync2 := rfl
@[simp] theorem takeEvent_driftError (s : State) (a : Agent) :
    (s.takeEvent a).driftError = s.driftError := rfl
@[simp] theorem takeEvent_pe (s : State) (a : Agent) :
    (s.takeEvent a).pe = s.pe := rfl
@[simp] theorem takeEvent_enabled (s : State) (a : Agent) :
    (s.takeEvent a).enabled = s.enabled := rfl
@[simp] theorem takeEvent_streaming (s : State) (a : Agent) :
    (s.takeEvent a).streaming = s.streaming := rfl
@[simp] theorem takeEvent_cursor (s : State) (a : Agent) :
    (s.takeEvent a).cursor = s.cursor := rfl
@[simp] theorem takeEvent_buf (s : State) (a : Agent) :
    (s.takeEvent a).buf = s.buf := rfl
@[simp] theorem takeEvent_pending (s : State) (a : Agent) :
    (s.takeEvent a).pending = s.pending.setQueue a (s.pending.queue a).tail := rfl
@[simp] theorem takeEvent_outs (s : State) (a : Agent) :
    (s.takeEvent a).outs = s.outs := rfl
@[simp] theorem takeEvent_freeIndex (s : State) (a : Agent) :
    (s.takeEvent a).freeIndex = s.freeIndex + 1 := rfl
@[simp] theorem takeEvent_resetAsserted (s : State) (a : Agent) :
    (s.takeEvent a).resetAsserted = s.resetAsserted := rfl

/-! ### `State.arrive` -/

@[simp] theorem arrive_pc (s : State) (a : Agent) (w : Word64) :
    (s.arrive a w).pc = s.pc := rfl
@[simp] theorem arrive_millis (s : State) (a : Agent) (w : Word64) :
    (s.arrive a w).millis = s.millis := rfl
@[simp] theorem arrive_seconds (s : State) (a : Agent) (w : Word64) :
    (s.arrive a w).seconds = s.seconds := rfl
@[simp] theorem arrive_sync1 (s : State) (a : Agent) (w : Word64) :
    (s.arrive a w).sync1 = s.sync1 := rfl
@[simp] theorem arrive_sync2 (s : State) (a : Agent) (w : Word64) :
    (s.arrive a w).sync2 = s.sync2 := rfl
@[simp] theorem arrive_driftError (s : State) (a : Agent) (w : Word64) :
    (s.arrive a w).driftError = s.driftError := rfl
@[simp] theorem arrive_pe (s : State) (a : Agent) (w : Word64) :
    (s.arrive a w).pe = s.pe := rfl
@[simp] theorem arrive_enabled (s : State) (a : Agent) (w : Word64) :
    (s.arrive a w).enabled = s.enabled := rfl
@[simp] theorem arrive_streaming (s : State) (a : Agent) (w : Word64) :
    (s.arrive a w).streaming = s.streaming := rfl
@[simp] theorem arrive_cursor (s : State) (a : Agent) (w : Word64) :
    (s.arrive a w).cursor = s.cursor := rfl
@[simp] theorem arrive_buf (s : State) (a : Agent) (w : Word64) :
    (s.arrive a w).buf = s.buf := rfl
@[simp] theorem arrive_pending (s : State) (a : Agent) (w : Word64) :
    (s.arrive a w).pending = s.pending.setQueue a (s.pending.queue a ++ [w]) := rfl
@[simp] theorem arrive_outs (s : State) (a : Agent) (w : Word64) :
    (s.arrive a w).outs = s.outs := rfl
@[simp] theorem arrive_freeIndex (s : State) (a : Agent) (w : Word64) :
    (s.arrive a w).freeIndex = s.freeIndex := rfl
@[simp] theorem arrive_resetAsserted (s : State) (a : Agent) (w : Word64) :
    (s.arrive a w).resetAsserted = s.resetAsserted := rfl

/-! ### `State.assertReset` -/

@[simp] theorem assertReset_pc (s : State) :
    s.assertReset.pc = s.pc := rfl
@[simp] theorem assertReset_millis (s : State) :
    s.assertReset.millis = s.millis := rfl
@[simp] theorem assertReset_seconds (s : State) :
    s.assertReset.seconds = s.seconds := rfl
@[simp] theorem assertReset_sync1 (s : State) :
    s.assertReset.sync1 = s.sync1 := rfl
@[simp] theorem assertReset_sync2 (s : State) :
    s.assertReset.sync2 = s.sync2 := rfl
@[simp] theorem assertReset_driftError (s : State) :
    s.assertReset.driftError = s.driftError := rfl
@[simp] theorem assertReset_pe (s : State) :
    s.assertReset.pe = s.pe := rfl
@[simp] theorem assertReset_enabled (s : State) :
    s.assertReset.enabled = s.enabled := rfl
@[simp] theorem assertReset_streaming (s : State) :
    s.assertReset.streaming = s.streaming := rfl
@[simp] theorem assertReset_cursor (s : State) :
    s.assertReset.cursor = s.cursor := rfl
@[simp] theorem assertReset_buf (s : State) :
    s.assertReset.buf = s.buf := rfl
@[simp] theorem assertReset_pending (s : State) :
    s.assertReset.pending = s.pending := rfl
@[simp] theorem assertReset_outs (s : State) :
    s.assertReset.outs = s.outs := rfl
@[simp] theorem assertReset_freeIndex (s : State) :
    s.assertReset.freeIndex = s.freeIndex := rfl
@[simp] theorem assertReset_resetAsserted (s : State) :
    s.assertReset.resetAsserted = true := rfl

end Sys2Proof.Machine
end

