-- ==== Sys2Proof/Laws/Ops.lean ====
section
/-! SUPPORT. What each shared operation can do: completion, faults, entries, the buffer, the
queues, the arbiter, the step. -/

namespace Sys2Proof.Machine

/-! ### Completion and faults -/

theorem done_eq (s : State) : s.done = .next { s with pc := s.pc + 1 } := rfl

/-- A fault changes nothing but `outs` and `pc` (R221). -/
theorem raise_eq (c : FaultCause) (s : State) :
    s.raise c = .next { s with outs := s.outs ++ [.fault c], pc := s.pc + 1 } := rfl

/-! ### The clock -/

/-- The product never overflows (decision D7). -/
theorem toNat_anchorOf (v : Word32) : (anchorOf v).toNat = v.toNat * 1000 := by
  have := v.isLt
  simp only [anchorOf, Config.msPerSecond, BitVec.toNat_mul, BitVec.toNat_setWidth,
    BitVec.toNat_ofNat]
  omega

/-! ### The periodic-event file -/

@[simp] theorem nPE_advance (s : State) : s.advance.nPE = s.nPE := rfl
@[simp] theorem entry?_advance (s : State) (i : Byte) :
    s.advance.entry? i = s.entry? i := rfl
@[simp] theorem nPE_emit (s : State) (r : Record) : (s.emit r).nPE = s.nPE := rfl
@[simp] theorem entry?_emit (s : State) (r : Record) (i : Byte) :
    (s.emit r).entry? i = s.entry? i := rfl
@[simp] theorem nPE_setClock (s : State) (v : Word32) : (s.setClock v).nPE = s.nPE := rfl
@[simp] theorem entry?_setClock (s : State) (v : Word32) (i : Byte) :
    (s.setClock v).entry? i = s.entry? i := rfl
@[simp] theorem nPE_goIdle (s : State) : s.goIdle.nPE = s.nPE := rfl
@[simp] theorem entry?_goIdle (s : State) (i : Byte) :
    s.goIdle.entry? i = s.entry? i := rfl
@[simp] theorem nPE_useFree (s : State) : s.useFree.nPE = s.nPE := rfl
@[simp] theorem entry?_useFree (s : State) (i : Byte) :
    s.useFree.entry? i = s.entry? i := rfl
@[simp] theorem nPE_takeEvent (s : State) (a : Agent) : (s.takeEvent a).nPE = s.nPE := rfl
@[simp] theorem entry?_takeEvent (s : State) (a : Agent) (i : Byte) :
    (s.takeEvent a).entry? i = s.entry? i := rfl

theorem entry?_eq_some_lt {i : Byte} {s : State} {p : PeriodicEvent} (h : s.entry? i = some p) :
    i.toNat < s.nPE := by
  simp only [State.entry?, List.getElem?_eq_some_iff] at h
  exact h.1

theorem entry?_of_lt {i : Byte} {s : State} (h : i.toNat < s.nPE) : ∃ p, s.entry? i = some p :=
  ⟨s.pe[i.toNat]'h, by simp [State.entry?, List.getElem?_eq_getElem h]⟩

theorem entry?_eq_none {i : Byte} {s : State} (h : s.nPE ≤ i.toNat) : s.entry? i = none := by
  simpa [State.entry?, State.nPE] using h

theorem withEntry_some {i : Byte} {c : Instr} {s : State} {p : PeriodicEvent}
    (k : PeriodicEvent → Host.Outcome State Fault Refusal) (h : s.entry? i = some p) :
    withEntry i c s k = k p := by simp [withEntry, h]

/-- A missing entry raises `ILLEGAL` with the command's own word (R84 condition 3). -/
theorem withEntry_none {i : Byte} {c : Instr} {s : State}
    (k : PeriodicEvent → Host.Outcome State Fault Refusal) (h : s.entry? i = none) :
    withEntry i c s k = s.raise (.illegal (encode c)) := by simp [withEntry, h]

@[simp] theorem nPE_setEntry (s : State) (i : Byte) (p : PeriodicEvent) :
    (s.setEntry i p).nPE = s.nPE := by simp [State.nPE]

theorem entry?_setEntry_self {i : Byte} {s : State} (p : PeriodicEvent) (h : i.toNat < s.nPE) :
    (s.setEntry i p).entry? i = some p := by
  have h' : i.toNat < s.pe.length := h
  simp [State.entry?, h']

theorem entry?_setEntry_ne {i k : Byte} (s : State) (p : PeriodicEvent) (h : k ≠ i) :
    (s.setEntry i p).entry? k = s.entry? k := by
  have : i.toNat ≠ k.toNat := fun e => h (BitVec.eq_of_toNat_eq e.symm)
  simp [State.entry?, List.getElem?_set_ne this]

/-- Writing back an entry that has not changed writes nothing. -/
theorem setEntry_same {i : Byte} {s : State} {p : PeriodicEvent} (h : s.entry? i = some p) :
    s.setEntry i p = s := by
  have hp : s.pe.set i.toNat p = s.pe := by
    simp only [State.entry?, List.getElem?_eq_some_iff] at h
    obtain ⟨hlt, rfl⟩ := h
    exact List.set_getElem_self hlt
  simp [State.setEntry, hp]

/-! ### The telegram buffer -/

/-- `buf[k] <- v` changes bit `k` and no other (R4). -/
theorem getLsbD_bufSet (b : Telegram) (k j : Nat) (v : Bool) :
    (bufSet b k v).getLsbD j = if j = k ∧ k < 60 then v else b.getLsbD j := by
  unfold bufSet
  by_cases hj : j < 60
  · by_cases e : j = k
    · subst e
      cases v <;> simp [hj]
    · cases v <;> simp [hj, e]
  · have hb : b.getLsbD j = false := BitVec.getLsbD_of_ge b j (by omega)
    have hk : ¬ (j = k ∧ k < 60) := by omega
    rw [if_neg hk, hb]
    exact BitVec.getLsbD_of_ge _ j (by omega)

@[simp] theorem val_cursorNext (c : Fin 62) : (cursorNext c).val = min (c.val + 1) 61 := rfl

theorem toNat_cursorField (s : State) : s.cursorField.toNat = s.cursor.val := by
  have := s.cursor.isLt
  simp only [State.cursorField, BitVec.toNat_ofNat]
  omega

/-! ### Queues and the arbiter -/

@[simp] theorem queue_setQueue_self (p : Pending) (a : Agent) (q : List Word64) :
    (p.setQueue a q).queue a = q := by cases a <;> rfl

theorem queue_setQueue_ne (p : Pending) {a b : Agent} (q : List Word64) (h : b ≠ a) :
    (p.setQueue a q).queue b = p.queue b := by cases a <;> cases b <;> simp_all [Pending.queue, Pending.setQueue]

theorem mem_ready {p : Pending} {a : Agent} : a ∈ p.ready ↔ p.queue a ≠ [] := by
  cases a <;> simp [Pending.ready, Agent.all]

/-- Whom the arbiter picks is ready. -/
theorem mem_of_arbitrate {choice : Nat} {l : List Agent} {a : Agent}
    (h : arbitrate choice l = some a) : a ∈ l := by
  match l, h with
  | [b], h => simpa [arbitrate, eq_comm] using h
  | b :: c :: rest, h => exact List.mem_of_getElem? h

/-- Some choice makes the arbiter pick any ready agent (R228). -/
theorem arbitrate_complete {l : List Agent} {a : Agent} (h : a ∈ l) :
    ∃ choice, arbitrate choice l = some a := by
  match l, h with
  | [b], h => exact ⟨0, by simpa [arbitrate, eq_comm] using h⟩
  | b :: c :: rest, h =>
    obtain ⟨k, hk, e⟩ := List.getElem_of_mem h
    refine ⟨k, ?_⟩
    have hk' : k < rest.length + 2 := hk
    simp only [arbitrate, Nat.mod_eq_of_lt hk']
    rw [List.getElem?_eq_getElem hk, e]

/-- The arbiter picks nobody only when nobody is ready. -/
theorem arbitrate_eq_none {choice : Nat} {l : List Agent} : arbitrate choice l = none ↔ l = [] := by
  match l with
  | [] => simp [arbitrate]
  | [b] => simp [arbitrate]
  | b :: c :: rest =>
    have hlt : choice % (rest.length + 2) < (b :: c :: rest).length :=
      Nat.mod_lt choice (Nat.succ_pos _)
    simp only [arbitrate, List.getElem?_eq_getElem hlt]
    simp

/-- The next event is the oldest one of an agent's queue. -/
theorem nextEvent_eq_some {s : State} {a : Agent} {w : Word64} (h : s.nextEvent = some (a, w)) :
    s.pending.queue a = w :: (s.pending.queue a).tail := by
  unfold State.nextEvent at h
  split at h
  · cases h
  · split at h
    · cases h
    · rename_i e
      cases h
      simp [e]

/-- There is no next event exactly when every queue is empty. -/
theorem nextEvent_eq_none {s : State} : s.nextEvent = none ↔ ∀ a, s.pending.queue a = [] := by
  unfold State.nextEvent State.nextAgent
  constructor
  · intro h a
    split at h
    · rename_i e
      rw [arbitrate_eq_none] at e
      by_contra hq
      simpa [e] using mem_ready.2 hq
    · rename_i b e
      have := mem_ready.1 (mem_of_arbitrate e)
      split at h
      · rename_i e'; exact absurd e' this
      · cases h
  · intro h
    have : s.pending.ready = [] := by
      rw [List.eq_nil_iff_forall_not_mem]
      intro a ha
      exact mem_ready.1 ha (h a)
    simp [this, arbitrate]

/-! ### The step -/

/-- What one step can do (R3, R250, R223): take the reset input, stop without input, raise
`ILLEGAL`, or run a command. -/
theorem oneStep_cases (s : State) :
    (s.resetAsserted = true ∧ oneStep s = .next s.applyReset) ∨
    (s.resetAsserted = false ∧ s.nextEvent = none ∧ oneStep s = .fault .noPendingEvent) ∨
    (∃ a w, s.resetAsserted = false ∧ s.nextEvent = some (a, w) ∧
      ((∃ e, decode s.nPE w = .error e ∧ oneStep s = (s.takeEvent a).raise (.illegal w)) ∨
       (∃ i, decode s.nPE w = .ok i ∧ oneStep s = exec i (s.takeEvent a)))) := by
  unfold oneStep
  cases hr : s.resetAsserted
  · refine .inr ?_
    cases hn : s.nextEvent with
    | none => exact .inl ⟨rfl, rfl, by simp⟩
    | some x =>
      obtain ⟨a, w⟩ := x
      refine .inr ⟨a, w, rfl, rfl, ?_⟩
      cases hd : decode s.nPE w with
      | error e => exact .inl ⟨e, rfl, by simp [runEvent, hd]⟩
      | ok i => exact .inr ⟨i, rfl, by simp [runEvent, hd]⟩
  · exact .inl ⟨rfl, by simp⟩

/-! ### Runs of commands -/

@[simp] theorem runAll_nil (s : State) : runAll [] s = .next s := rfl

theorem runAll_cons_of_next {c : Instr} {s t : State} (cs : List Instr) (h : exec c s = .next t) :
    runAll (c :: cs) s = runAll cs t := by simp [runAll, h]

theorem runAll_append {cs ds : List Instr} {s t : State} (h : runAll cs s = .next t) :
    runAll (cs ++ ds) s = runAll ds t := by
  induction cs generalizing s with
  | nil => cases h; rfl
  | cons c cs ih =>
    simp only [List.cons_append, runAll] at h ⊢
    split at h
    · exact ih h
    · cases h
    · cases h

end Sys2Proof.Machine
end

