-- ==== Sys2Proof/Laws/Dcf.lean ====
section
/-! SUPPORT. The classes of an edge duration, the sums of a telegram and its parities. -/

namespace Sys2Proof.Machine

/-- The duration of an edge of each class (R170). -/
theorem band_spec (e : Word32) :
    match band e with
    | .ignored => e.toNat ≤ 30
    | .zero => 50 ≤ e.toNat ∧ e.toNat ≤ 149
    | .one => 150 ≤ e.toNat ∧ e.toNat ≤ 300
    | .gap => 1500 < e.toNat
    | .noise => (31 ≤ e.toNat ∧ e.toNat ≤ 49) ∨ (301 ≤ e.toNat ∧ e.toNat ≤ 1500) := by
  unfold band Config.tBounce Config.zeroLo Config.zeroHi Config.oneLo Config.oneHi Config.tGap
  split_ifs <;> simp only <;> omega

/-- A weighted sum is at most the sum of its weights (R181). -/
theorem wsum_le (b : Telegram) (ws : List Nat) (lo : Nat) : wsum b lo ws ≤ ws.sum := by
  induction ws generalizing lo with
  | nil => simp [wsum]
  | cons w ws ih =>
    have h := ih (lo + 1)
    have hb : (b.getLsbD lo).toNat * w ≤ w := by
      cases b.getLsbD lo <;> simp
    simp only [wsum, List.sum_cons]
    omega

/-- Every field of a decoded frame fits its width (R181: 85, 45, 45, 25, 165). -/
theorem fields_le (b : Telegram) :
    minuteOf b ≤ 85 ∧ hourOf b ≤ 45 ∧ dayOf b ≤ 45 ∧ monthOf b ≤ 25 ∧ yearOf b ≤ 165 :=
  ⟨wsum_le b _ _, wsum_le b _ _, wsum_le b _ _, wsum_le b _ _, wsum_le b _ _⟩

/-- The count of ones as a sum over the indices. -/
theorem bitSum_eq (b : Telegram) (lo n : Nat) :
    bitSum b lo n = ((List.range n).map fun k => (b.getLsbD (lo + k)).toNat).sum := by
  induction n generalizing lo with
  | zero => simp [bitSum]
  | succ n ih =>
    rw [bitSum, ih, List.range_succ_eq_map, List.map_cons, List.sum_cons, List.map_map]
    simp only [Nat.add_zero, Function.comp_def]
    congr 3
    funext k
    congr 2
    omega

/-- A parity check as integers (R182). -/
theorem parityOk_iff (b : Telegram) (bit lo n : Nat) :
    parityOk b bit lo n = true ↔
      (b.getLsbD bit).toNat = ((List.range n).map fun k => (b.getLsbD (lo + k)).toNat).sum % 2 := by
  simp [parityOk, bitSum_eq]

end Sys2Proof.Machine
end

