-- ==== Sys2Proof/Laws/Encoding.lean ====
section
/-! SUPPORT. The fields of a packed word, and a word as the pack of its fields. -/

namespace Sys2Proof

@[simp] theorem opField_packWord (o i a r : Byte) (d : Word32) : opField (packWord o i a r d) = o := by
  ext k hk
  simp only [opField, packWord, BitVec.getElem_extractLsb', BitVec.getLsbD_append]
  simp [show ¬ (56 + k < 32) by omega, show ¬ (56 + k - 32 < 8) by omega,
    show ¬ (56 + k - 32 - 8 < 8) by omega, show ¬ (56 + k - 32 - 8 - 8 < 8) by omega,
    show 56 + k - 32 - 8 - 8 - 8 = k by omega, BitVec.getLsbD_eq_getElem hk]

@[simp] theorem idxField_packWord (o i a r : Byte) (d : Word32) :
    idxField (packWord o i a r d) = i := by
  ext k hk
  simp only [idxField, packWord, BitVec.getElem_extractLsb', BitVec.getLsbD_append]
  simp [show ¬ (48 + k < 32) by omega, show ¬ (48 + k - 32 < 8) by omega,
    show ¬ (48 + k - 32 - 8 < 8) by omega,
    show 48 + k - 32 - 8 - 8 = k by omega, BitVec.getLsbD_eq_getElem hk]
  omega

@[simp] theorem auxField_packWord (o i a r : Byte) (d : Word32) :
    auxField (packWord o i a r d) = a := by
  ext k hk
  simp only [auxField, packWord, BitVec.getElem_extractLsb', BitVec.getLsbD_append]
  simp [show ¬ (40 + k < 32) by omega, show ¬ (40 + k - 32 < 8) by omega,
    show 40 + k - 32 - 8 = k by omega, BitVec.getLsbD_eq_getElem hk]
  omega

@[simp] theorem resField_packWord (o i a r : Byte) (d : Word32) :
    resField (packWord o i a r d) = r := by
  ext k hk
  simp only [resField, packWord, BitVec.getElem_extractLsb', BitVec.getLsbD_append]
  simp [show ¬ (32 + k < 32) by omega, show 32 + k - 32 = k by omega,
    BitVec.getLsbD_eq_getElem hk]
  omega

@[simp] theorem dataField_packWord (o i a r : Byte) (d : Word32) :
    dataField (packWord o i a r d) = d := by
  ext k hk
  simp only [dataField, packWord, BitVec.getElem_extractLsb', BitVec.getLsbD_append]
  simp [hk]

/-- A word is the pack of its own fields (R80). -/
theorem packWord_fields (w : Word64) :
    packWord (opField w) (idxField w) (auxField w) (resField w) (dataField w) = w := by
  ext k hk
  simp only [packWord, opField, idxField, auxField, resField, dataField, ← BitVec.getLsbD_eq_getElem hk,
    BitVec.getLsbD_append, BitVec.getLsbD_extractLsb']
  split
  · simp [*]
  · split
    · simp [show k - 32 < 8 by omega, show 32 + (k - 32) = k by omega]
    · split
      · simp [show k - 32 - 8 < 8 by omega, show 40 + (k - 32 - 8) = k by omega]
      · split
        · simp [show k - 32 - 8 - 8 < 8 by omega, show 48 + (k - 32 - 8 - 8) = k by omega]
        · simp [show k - 32 - 8 - 8 - 8 < 8 by omega, show 56 + (k - 32 - 8 - 8 - 8) = k by omega]

/-- Two packs are equal exactly when their fields are. -/
theorem packWord_inj {o i a r o' i' a' r' : Byte} {d d' : Word32} :
    packWord o i a r d = packWord o' i' a' r' d' ↔ o = o' ∧ i = i' ∧ a = a' ∧ r = r' ∧ d = d' := by
  constructor
  · intro h
    refine ⟨?_, ?_, ?_, ?_, ?_⟩
    · simpa using congrArg opField h
    · simpa using congrArg idxField h
    · simpa using congrArg auxField h
    · simpa using congrArg resField h
    · simpa using congrArg dataField h
  · rintro ⟨rfl, rfl, rfl, rfl, rfl⟩; rfl

/-- Masking a pack masks each field. -/
theorem packWord_and (o i a r o' i' a' r' : Byte) (d d' : Word32) :
    packWord o i a r d &&& packWord o' i' a' r' d' =
      packWord (o &&& o') (i &&& i') (a &&& a') (r &&& r') (d &&& d') := by
  apply BitVec.eq_of_getLsbD_eq
  intro k _
  simp only [packWord, BitVec.getLsbD_and, BitVec.getLsbD_append]
  split_ifs <;> rfl

/-- The opcode map is unambiguous: `opcodeOf` finds `o` at its own OP value (R83). -/
@[simp] theorem opcodeOf_code (o : Opcode) : opcodeOf o.code = some o := by
  cases o <;> decide

/-- An OP value that names an opcode is that opcode's value (R83). -/
theorem code_of_opcodeOf {b : Byte} {o : Opcode} (h : opcodeOf b = some o) : o.code = b := by
  simpa using List.find?_some h

/-- The OP value of a command's word is that of its opcode (R83, R86). -/
theorem opField_encode (i : Instr) : opField (encode i) = i.opcode.code := by
  cases i <;> simp [encode, Instr.opcode, Opcode.code]

/-- The level bit is the low bit of AUX (R82). -/
theorem auxLevel (b : Bool) : ((BitVec.ofBool b).setWidth 8).getLsbD 0 = b ∧
    ((BitVec.ofBool b).setWidth 8).extractLsb' 1 7 = 0#7 := by
  cases b <;> decide

/-- An AUX field whose bits 7 to 1 are zero is its level bit, zero-extended (R81 format E). -/
theorem aux_eq_level {a : Byte} (h : a.extractLsb' 1 7 = 0#7) :
    (BitVec.ofBool (a.getLsbD 0)).setWidth 8 = a := by
  revert a; decide

/-- What a successful decode says (R81 to R84). -/
theorem decode_ok {nPE : Nat} {w : Word64} {i : Instr} (h : decode nPE w = .ok i) :
    ∃ o, opcodeOf (opField w) = some o ∧ reservedZero o.format w = true ∧
      i = assembleOperands o w ∧ i.wellFormed nPE = true := by
  unfold decode at h
  split at h
  · cases h
  · rename_i o ho
    split at h
    · split at h
      · rename_i hz hw
        cases h
        exact ⟨o, ho, hz, rfl, hw⟩
      · cases h
    · cases h

/-- The opcode of an assembled command. -/
@[simp] theorem opcode_assembleOperands (o : Opcode) (w : Word64) :
    (assembleOperands o w).opcode = o := by
  cases o <;> rfl

end Sys2Proof
end

