-- ==== Sys2Proof/Laws/PerInstr.lean ====
section
/-! SUPPORT. A property of every command as syntax, one lemma per constructor: the word of a command
has its opcode's OP value, and zeros where its format has them. -/

open Sys2Proof

/-- The word of `i` carries the OP value of its opcode (R83) and zeros in every field its format
marks 0 (R81). -/
def Sys2Proof.Laws.EncodeFields.Statement (i : Instr) : Prop :=
  opField (encode i) = i.opcode.code ∧ reservedZero i.opcode.format (encode i) = true

theorem Sys2Proof.Laws.EncodeFields.fastTick : Sys2Proof.Laws.EncodeFields.Statement .fastTick :=
  ⟨rfl, rfl⟩

theorem Sys2Proof.Laws.EncodeFields.preciseTick :
    Sys2Proof.Laws.EncodeFields.Statement .preciseTick :=
  ⟨rfl, rfl⟩

theorem Sys2Proof.Laws.EncodeFields.setTime (s : Word32) :
    Sys2Proof.Laws.EncodeFields.Statement (.setTime s) := by
  simp [Statement, Instr.opcode, Opcode.code, Opcode.format, reservedZero, encode]

theorem Sys2Proof.Laws.EncodeFields.readTime : Sys2Proof.Laws.EncodeFields.Statement .readTime :=
  ⟨rfl, rfl⟩

theorem Sys2Proof.Laws.EncodeFields.readDiag : Sys2Proof.Laws.EncodeFields.Statement .readDiag :=
  ⟨rfl, rfl⟩

theorem Sys2Proof.Laws.EncodeFields.corrCheck (i : Byte) :
    Sys2Proof.Laws.EncodeFields.Statement (.corrCheck i) := by
  simp [Statement, Instr.opcode, Opcode.code, Opcode.format, reservedZero, encode]

theorem Sys2Proof.Laws.EncodeFields.dcfEdge (e : Word32) (level : Bool) :
    Sys2Proof.Laws.EncodeFields.Statement (.dcfEdge e level) := by
  simp [Statement, Instr.opcode, Opcode.code, Opcode.format, reservedZero, encode,
    (auxLevel level).2]

theorem Sys2Proof.Laws.EncodeFields.dcfOn : Sys2Proof.Laws.EncodeFields.Statement .dcfOn :=
  ⟨rfl, rfl⟩

theorem Sys2Proof.Laws.EncodeFields.dcfOff : Sys2Proof.Laws.EncodeFields.Statement .dcfOff :=
  ⟨rfl, rfl⟩

theorem Sys2Proof.Laws.EncodeFields.readDcf : Sys2Proof.Laws.EncodeFields.Statement .readDcf :=
  ⟨rfl, rfl⟩

theorem Sys2Proof.Laws.EncodeFields.peConfig (i : Byte) (d : Word32) (m : Byte) :
    Sys2Proof.Laws.EncodeFields.Statement (.peConfig i d m) := by
  simp [Statement, Instr.opcode, Opcode.code, Opcode.format, reservedZero, encode]

theorem Sys2Proof.Laws.EncodeFields.peOccurred (i : Byte) :
    Sys2Proof.Laws.EncodeFields.Statement (.peOccurred i) := by
  simp [Statement, Instr.opcode, Opcode.code, Opcode.format, reservedZero, encode]

theorem Sys2Proof.Laws.EncodeFields.peReset (i : Byte) :
    Sys2Proof.Laws.EncodeFields.Statement (.peReset i) := by
  simp [Statement, Instr.opcode, Opcode.code, Opcode.format, reservedZero, encode]

theorem Sys2Proof.Laws.EncodeFields.readPe (i : Byte) :
    Sys2Proof.Laws.EncodeFields.Statement (.readPe i) := by
  simp [Statement, Instr.opcode, Opcode.code, Opcode.format, reservedZero, encode]
end

