-- ==== Sys2Proof/Laws/Periodic.lean ====
section
/-! SUPPORT. What the occurrence function and the conditions of an entry say. -/

namespace Sys2Proof.Machine

/-- `exhausted` as integers (R36). -/
theorem exhausted_iff (p : PeriodicEvent) :
    p.exhausted = true ↔ p.max ≠ 0 ∧ p.max.toNat ≤ p.count.toNat := by
  simp [PeriodicEvent.exhausted]

/-- `elapsed` as integers (R140). -/
theorem elapsed_iff (now : Word64) (p : PeriodicEvent) :
    p.elapsed now = true ↔ p.last.toNat + p.delay.toNat ≤ now.toNat := by
  simp [PeriodicEvent.elapsed]

/-- The two outcomes of the occurrence function (R140). -/
theorem occ_cases (p : PeriodicEvent) (now : Word64) :
    (p.exhausted = false ∧ p.elapsed now = true ∧ occ p now = (true, p.fire now)) ∨
    ((p.exhausted = true ∨ p.elapsed now = false) ∧ occ p now = (false, p)) := by
  unfold occ
  cases p.exhausted <;> cases p.elapsed now <;> simp

/-- It fires exactly when the entry is not exhausted and its window has elapsed (R140). -/
theorem occ_fst_iff (p : PeriodicEvent) (now : Word64) :
    (occ p now).1 = true ↔ p.exhausted = false ∧ p.last.toNat + p.delay.toNat ≤ now.toNat := by
  rw [← elapsed_iff]
  obtain ⟨h1, h2, h3⟩ | ⟨h1, h2⟩ := occ_cases p now
  · simp [h1, h2, h3]
  · rw [h2]
    rcases h1 with h | h <;> simp [h]

@[simp] theorem fire_last (p : PeriodicEvent) (now : Word64) : (p.fire now).last = now := rfl
@[simp] theorem fire_delay (p : PeriodicEvent) (now : Word64) : (p.fire now).delay = p.delay := rfl
@[simp] theorem fire_max (p : PeriodicEvent) (now : Word64) : (p.fire now).max = p.max := rfl

/-- A firing of an entry that is not exhausted adds one to a bounded count, with no overflow, and
leaves an unbounded one (R140). -/
theorem toNat_fire_count {p : PeriodicEvent} (now : Word64) (h : p.exhausted = false) :
    (p.fire now).count.toNat = p.count.toNat + (if p.max = 0 then 0 else 1) := by
  have hx := mt (exhausted_iff p).2 (by simp [h])
  unfold PeriodicEvent.fire
  by_cases hm : p.max = 0
  · simp [hm]
  · have hlt : p.count.toNat < p.max.toNat := by
      by_contra hc
      exact hx ⟨hm, by omega⟩
    have := p.max.isLt
    simp only [hm, if_false, BitVec.toNat_add, show (1 : Byte).toNat = 1 from rfl]
    omega

@[simp] theorem arm_last (p : PeriodicEvent) (now : Word64) : (p.arm now).last = now := rfl
@[simp] theorem arm_count (p : PeriodicEvent) (now : Word64) : (p.arm now).count = 0 := rfl
@[simp] theorem arm_delay (p : PeriodicEvent) (now : Word64) : (p.arm now).delay = p.delay := rfl
@[simp] theorem arm_max (p : PeriodicEvent) (now : Word64) : (p.arm now).max = p.max := rfl

/-- An armed entry is not exhausted (R141, R143). -/
@[simp] theorem arm_exhausted (p : PeriodicEvent) (now : Word64) : (p.arm now).exhausted = false := by
  simp only [PeriodicEvent.exhausted, arm_max, arm_count]
  by_cases h : p.max = 0
  · simp [h]
  · have : 0 < p.max.toNat := Nat.pos_of_ne_zero fun e => h (BitVec.eq_of_toNat_eq (by simpa using e))
    simp
    omega

end Sys2Proof.Machine
end

