-- ==== Sys2Proof/Tests/Slice0.lean ====
section
/-! SUPPORT. The model's own tests: expected values from the forms of 30_encoding.md R86 and the
vectors of 95_test_vectors.md, and one witness for each statement that has hypotheses. -/

namespace Sys2Proof.Tests

open Sys2Proof Sys2Proof.Machine

/-! ### Small states -/

/-- Reset but for the clock. -/
def clock (seconds : Word32) (millis : Word64) (sync1 sync2 : Word16) : State :=
  { State.reset with seconds := seconds, millis := millis, sync1 := sync1, sync2 := sync2 }

/-- Reset but for the decoder, which is on. -/
def decoder (streaming : Bool) (cursor : Fin 62) (buf : Telegram) : State :=
  { State.reset with enabled := true, streaming := streaming, cursor := cursor, buf := buf }

/-- `s` after one command that emitted `rs`. -/
def moved (rs : List Record) (s : State) : State := { s with pc := s.pc + 1, outs := s.outs ++ rs }

/-- The next state of an outcome, where it has one. -/
def next? (o : Host.Outcome State Fault Refusal) : Option State :=
  match o with
  | .next t => some t
  | .fault _ => none
  | .refused _ => none

/-- Reset with one word waiting in an agent's queue. -/
def waiting (a : Agent) (w : Word64) : State := State.reset.arrive a w

/-! ### WellFormed: the ill-formed term of each check -/

theorem test_wellFormed_refuses_index_eight :
    (Instr.peOccurred 8).wellFormed 8 = false ∧ (Instr.peOccurred 7).wellFormed 8 = true := by
  decide

theorem test_wellFormed_refuses_config_and_correction :
    (Instr.peConfig 8 500 2).wellFormed 8 = false ∧ (Instr.corrCheck 255).wellFormed 255 = false := by
  decide

/-! ### Decoding: words written out from R80, R81, R83 and R86 -/

/-- Format Z, 0x02: OP = 0000 0010, every other field 0. -/
theorem test_decode_preciseTick_bits :
    decode 8 (0b00000010#8 ++ 0b00000000#8 ++ 0b00000000#8 ++ 0b00000000#8 ++
      0b00000000000000000000000000000000#32) = .ok .preciseTick := by
  decide

/-- Format D, 0x03: OP = 0000 0011, DATA = 50. -/
theorem test_decode_setTime_bits :
    decode 8 (0b00000011#8 ++ 0b00000000#8 ++ 0b00000000#8 ++ 0b00000000#8 ++
      0b00000000000000000000000000110010#32) = .ok (.setTime 50) := by
  decide

/-- Format I, 0x23: OP = 0010 0011, IDX = 6. -/
theorem test_decode_readPe_bits :
    decode 8 (0b00100011#8 ++ 0b00000110#8 ++ 0b00000000#8 ++ 0b00000000#8 ++
      0b00000000000000000000000000000000#32) = .ok (.readPe 6) := by
  decide

/-- Format E, 0x10: OP = 0001 0000, AUX = 0000 0001 (L = 1, high), DATA = 1501. -/
theorem test_decode_dcfEdge_bits :
    decode 8 (0b00010000#8 ++ 0b00000000#8 ++ 0b00000001#8 ++ 0b00000000#8 ++
      0b00000000000000000000010111011101#32) = .ok (.dcfEdge 1501 true) := by
  decide

/-- Format C, 0x20: OP = 0010 0000, IDX = 1, AUX = 255 (max), DATA = 5000 (delay). -/
theorem test_decode_peConfig_bits :
    decode 8 (0b00100000#8 ++ 0b00000001#8 ++ 0b11111111#8 ++ 0b00000000#8 ++
      0b00000000000000000001001110001000#32) = .ok (.peConfig 1 5000 255) := by
  decide

theorem test_decode_words_rtcs :
    decode 8 0x0100000000000000#64 = .ok .fastTick ∧
    decode 8 0x0200000000000000#64 = .ok .preciseTick ∧
    decode 8 0x03000000FFFFFFFF#64 = .ok (.setTime 4294967295) ∧
    decode 8 0x0400000000000000#64 = .ok .readTime ∧
    decode 8 0x0500000000000000#64 = .ok .readDiag ∧
    decode 8 0x0602000000000000#64 = .ok (.corrCheck 2) := by
  decide

theorem test_decode_words_dcfd :
    decode 8 0x1000000000000064#64 = .ok (.dcfEdge 100 false) ∧
    decode 8 0x1100000000000000#64 = .ok .dcfOn ∧
    decode 8 0x1200000000000000#64 = .ok .dcfOff ∧
    decode 8 0x1300000000000000#64 = .ok .readDcf := by
  decide

theorem test_decode_words_pet :
    decode 8 0x2003000000000000#64 = .ok (.peConfig 3 0 0) ∧
    decode 8 0x2105000000000000#64 = .ok (.peOccurred 5) ∧
    decode 8 0x2201000000000000#64 = .ok (.peReset 1) ∧
    decode 8 0x2307000000000000#64 = .ok (.readPe 7) := by
  decide

/-- V98 to V102: unassigned OP values. -/
theorem test_decode_refuses_unassigned :
    [0x0000000000000000#64, 0x0700000000000000#64, 0x1400000000000000#64, 0x2400000000000000#64,
      0xFFFFFFFFFFFFFFFF#64].map (decode 8) = List.replicate 5 (.error .unassignedOp) := by
  decide

/-- V103 to V108, V110, V113: a field the format marks 0 is not 0. -/
theorem test_decode_refuses_reserved :
    [0x0100000000000001#64, 0x0201000000000000#64, 0x0300000100000005#64, 0x0300010000000005#64,
      0x1000020000000064#64, 0x1001000000000064#64, 0x2100000000000001#64,
      0x2300010000000000#64].map (decode 8) = List.replicate 8 (.error .reservedNonzero) := by
  decide

/-- V109, V111, V112: an index of `N_PE` or more; legal where the block has that entry. -/
theorem test_decode_refuses_missing_entry :
    [0x2108000000000000#64, 0x20080200000001F4#64, 0x06FF000000000000#64].map (decode 8) =
      List.replicate 3 (.error .indexOutOfRange) ∧
    decode 9 0x2108000000000000#64 = .ok (.peOccurred 8) ∧
    decode 256 0x06FF000000000000#64 = .ok (.corrCheck 255) := by
  decide

theorem test_table_word_decodes :
    decodeTableWord 64 0x2204000000000000 = some (.peReset 4) ∧
    decodeTableWord 64 0x2208000000000000 = none := by
  decide

/-- No two rows of the opcode table hit one word: each row's pattern is hit by that row only. -/
theorem test_table_patterns_are_distinct :
    opcodeTable.map (fun r => (opcodeTable.filter (·.hits r.pattern)).length) =
      List.replicate 14 1 := by
  decide

/-! ### The assembler (R86, R87) -/

/-- P3, P4 and V114: lines with their words. -/
theorem test_assemble_lines :
    assembleLine 8 "PE_CONFIG 1, 5000, 1         ; 0x2001010000001388".toList =
      .ok [0x2001010000001388#64] ∧
    assembleLine 8 "DCF_EDGE 0x64, 1".toList = .ok [0x1000010000000064#64] ∧
    assembleLine 8 "  ; only a comment".toList = .ok [] := by
  decide

theorem test_assemble_rejects :
    assembleLine 8 "PE_OCCURRED 8".toList = .error .indexOutOfRange ∧
    assembleLine 8 "SET_TIME 4294967296".toList = .error .operandTooLarge ∧
    assembleLine 8 "PE_CONFIG 0, 1, 256".toList = .error .operandTooLarge ∧
    assembleLine 8 "DCF_EDGE 100, 2".toList = .error .operandTooLarge ∧
    assembleLine 8 "READ_TIME 1".toList = .error .badOperands := by
  decide

theorem test_assemble_pseudo :
    assembleLine 2 "DCF_APPLY 100".toList =
      .ok [0x0300000000000064#64, 0x1200000000000000#64, 0x2200000000000000#64,
        0x2201000000000000#64] ∧
    assembleLine 8 "DCF_BITS \"101\"".toList =
      .ok [0x10000000000000C8#64, 0x1000000000000064#64, 0x10000000000000C8#64] ∧
    assembleLine 8 "FAST_TICKS 2".toList = .ok [0x0100000000000000#64, 0x0100000000000000#64] ∧
    assembleLine 8 ".word 0x2108000000000000".toList = .ok [0x2108000000000000#64] := by
  decide

/-! ### One step of each command, from the vectors -/

/-- V20: the tick that reaches the park. -/
theorem test_fastTick_reaches_park :
    next? (exec .fastTick (clock 5 5998 998 998)) = some (moved [] (clock 5 5999 999 999)) := by
  decide

/-- V21: parked, and `sync2` wraps. -/
theorem test_fastTick_parked_wraps :
    next? (exec .fastTick (clock 5 5999 999 65535)) = some (moved [] (clock 5 5999 999 0)) := by
  decide

/-- V28: the product is above 2^32. -/
theorem test_preciseTick_wide_product :
    next? (exec .preciseTick (clock 4294967 4294967000 0 0)) =
      some (moved [] { clock 4294968 4294968000 0 0 with driftError := BitVec.ofInt 16 (-999) }) := by
  decide

/-- V26 and V27 in one: the seconds wrap, and an error that no longer fits. -/
theorem test_preciseTick_wraps :
    next? (exec .preciseTick (clock 4294967295 4294967295999 999 33767)) =
      some (moved [] { clock 0 0 0 0 with driftError := BitVec.ofInt 16 (-32768) }) := by
  decide

/-- V29: backward, the sync counters and the error kept. -/
theorem test_setTime_backward :
    next? (exec (.setTime 50) { clock 100 100500 500 500 with driftError := 1 }) =
      some (moved [.ack] { clock 50 50000 500 500 with driftError := 1 }) := by
  decide

/-- V30: the largest time. -/
theorem test_setTime_largest :
    next? (exec (.setTime 4294967295) State.reset) =
      some (moved [.ack] (clock 4294967295 4294967295000 0 0)) := by
  decide

/-- V32. -/
theorem test_readTime :
    next? (exec .readTime (clock 101 101500 500 500)) =
      some (moved [.time 101 101500] (clock 101 101500 500 500)) := by
  decide

/-- V33: a negative error. -/
theorem test_readDiag_negative :
    next? (exec .readDiag { clock 100 100000 0 0 with driftError := BitVec.ofInt 16 (-999) }) =
      some (moved [.diag 0 0 (BitVec.ofInt 16 (-999))]
        { clock 100 100000 0 0 with driftError := BitVec.ofInt 16 (-999) }) := by
  decide

/-- V35: the sub-second part is discarded. -/
theorem test_corrCheck_fires :
    next? (exec (.corrCheck 1) ((clock 1005 1005700 700 700).setEntry 1 ⟨5000, 1, 1000000, 0⟩)) =
      some (moved [.corr true]
        ((clock 1004 1004000 700 700).setEntry 1 ⟨5000, 1, 1005700, 1⟩)) := by
  decide

/-- V38: the correction at epoch 0 is a fault, and not even the entry changes. -/
theorem test_corrCheck_underflow :
    next? (exec (.corrCheck 2) (State.reset.setEntry 2 ⟨0, 1, 0, 0⟩)) =
      some (moved [.fault .corrUnderflow] (State.reset.setEntry 2 ⟨0, 1, 0, 0⟩)) := by
  decide

/-- V77: the last bit of a frame. -/
theorem test_dcfEdge_last_bit :
    next? (exec (.dcfEdge 200 false) (decoder true 59 0)) =
      some (moved [.bitOk true] (decoder true 60 0x800000000000000)) := by
  decide

/-- V70 and V72: a pulse while idle under each draw. -/
theorem test_dcfEdge_idle_pulse :
    (edgeEffect false 200 false (decoder false 0 0)).outs = [] ∧
    (edgeEffect true 200 false (decoder false 0 0)).outs = [.bitFail] := by
  decide

/-- V82. -/
theorem test_dcfOn :
    next? (exec .dcfOn (decoder true 17 0)) = some (moved [.ack] (decoder false 0 0)) := by
  decide

/-- V83: `buf` is kept. -/
theorem test_dcfOff :
    next? (exec .dcfOff (decoder true 17 0x454D2545B1228F4)) =
      some (moved [.ack] { decoder false 0 0x454D2545B1228F4 with enabled := false }) := by
  decide

/-- V85. -/
theorem test_readDcf :
    next? (exec .readDcf (decoder true 3 5)) = some (moved [.dcfstat true true 3 5] (decoder true 3 5)) := by
  decide

/-- V42: a live entry is armed anew. -/
theorem test_peConfig_discards :
    next? (exec (.peConfig 3 0 0) ((clock 0 1234 0 0).setEntry 3 ⟨9, 9, 9, 9⟩)) =
      some (moved [.ack] ((clock 0 1234 0 0).setEntry 3 ⟨0, 0, 1234, 0⟩)) := by
  decide

/-- V52: the largest count. -/
theorem test_peOccurred_count_255 :
    next? (exec (.peOccurred 7) ((clock 0 3000 0 0).setEntry 7 ⟨1000, 255, 2000, 254⟩)) =
      some (moved [.fired true] ((clock 0 3000 0 0).setEntry 7 ⟨1000, 255, 3000, 255⟩)) := by
  decide

/-- V44: the window has one millisecond to go. -/
theorem test_peOccurred_too_early :
    next? (exec (.peOccurred 0) ((clock 0 999 0 0).setEntry 0 ⟨500, 2, 500, 1⟩)) =
      some (moved [.fired false] ((clock 0 999 0 0).setEntry 0 ⟨500, 2, 500, 1⟩)) := by
  decide

/-- V47. -/
theorem test_peReset :
    next? (exec (.peReset 0) ((clock 0 1600 0 0).setEntry 0 ⟨500, 2, 1000, 2⟩)) =
      some (moved [.ack] ((clock 0 1600 0 0).setEntry 0 ⟨500, 2, 1600, 0⟩)) := by
  decide

/-- V52, the read. -/
theorem test_readPe :
    next? (exec (.readPe 7) (State.reset.setEntry 7 ⟨1000, 255, 3000, 255⟩)) =
      some (moved [.pestat 1000 255 3000 255] (State.reset.setEntry 7 ⟨1000, 255, 3000, 255⟩)) := by
  decide

/-! ### Steps -/

/-- V109: an illegal word is a fault record and nothing else. -/
theorem test_step_illegal_word :
    next? (step (waiting .host 0x2108000000000000#64)) =
      some { moved [.fault (.illegal 0x2108000000000000#64)] State.reset with freeIndex := 1 } := by
  decide

theorem test_step_of_placed_word :
    next? (step (State.reset.withFetchWord 64 0x0300000000000064)) =
      some { moved [.ack] (clock 100 100000 0 0) with freeIndex := 1 } := by
  decide

theorem test_step_without_events : step State.reset = .fault .noPendingEvent := rfl

/-- R222: codes and kinds of records. -/
theorem test_record_codes :
    [Record.ack, .time 0 0, .diag 0 0 0, .dcfstat false false 0 0, .pestat 0 0 0 0, .fired true,
      .corr true].map Record.code = [0x00, 0x01, 0x02, 0x03, 0x04, 0x05, 0x06] ∧
    [Record.bitOk true, .bitFail, .frameOk 0 0 0 0 0, .frameParityErr true true false,
      .frameCountErr 0].map Record.code = [0x10, 0x11, 0x12, 0x13, 0x14] ∧
    [Record.fault (.illegal 0), .fault .corrUnderflow].map Record.code = [0xE0, 0xE1] := by
  decide

/-! ### The decode of a frame, V87 to V97 -/

theorem test_decodeRecord_valid :
    decodeRecord 0x454D2545B1228F4 = .frameOk 58 22 25 6 15 ∧
    decodeRecord 0xC54D2545B0228D5 = .frameOk 58 22 25 6 15 ∧
    decodeRecord 0x3FFFFF7FFE00000 = .frameOk 85 45 45 25 165 ∧
    decodeRecord 0x000000001E00000 = .frameOk 15 0 0 0 0 := by
  decide

theorem test_decodeRecord_parity :
    decodeRecord 0x454D2544B1228F4 = .frameParityErr false true true ∧
    decodeRecord 0x454D25C5B1228F4 = .frameParityErr true false true ∧
    decodeRecord 0x054D2545B1228F4 = .frameParityErr true true false ∧
    decodeRecord 0x454DA545B1228F4 = .frameParityErr true true false := by
  decide

/-! ### Witnesses: a state and operands that meet the hypotheses of each statement -/

theorem witness_DecodeOfEncodeIsTheCommand :
    (Instr.peConfig 7 4294967295 255).wellFormed 8 = true ∧
    (Instr.corrCheck 255).wellFormed 256 = true := by
  decide

theorem witness_EncodeOfDecodeIsTheWord :
    decode 8 0x2007FF00FFFFFFFF#64 = .ok (.peConfig 7 4294967295 255) := by
  decide

/-- Each clause of R84: OP 0x07; AUX[1] of format E; IDX = N_PE. -/
theorem witness_IllegalWordsAreExactlyThose :
    (∀ w, (waiting .host w).nPE = 8 ∧ (waiting .host w).resetAsserted = false ∧
      (waiting .host w).nextEvent = some (.host, w)) ∧
    decode 8 0x0700000000000000#64 = .error .unassignedOp ∧
    decode 8 0x1000020000000064#64 = .error .reservedNonzero ∧
    decode 8 0x2108000000000000#64 = .error .indexOutOfRange :=
  ⟨fun _ => ⟨rfl, rfl, rfl⟩, by decide, by decide, by decide⟩

theorem witness_LegalWordsMatchTheOpcodeTable :
    decode 8 0x2107000000000000#64 = .ok (.peOccurred 7) ∧
    (opcodeTable.any fun r => r.hits 0x2107000000000000#64) = true :=
  ⟨by decide, by rfl⟩

theorem witness_StepRunsTheDecodedCommand :
    (waiting .comparator 0x1000010000000708#64).resetAsserted = false ∧
    (waiting .comparator 0x1000010000000708#64).nextEvent =
      some (.comparator, 0x1000010000000708#64) ∧
    decode (waiting .comparator 0x1000010000000708#64).nPE 0x1000010000000708#64 =
      .ok (.dcfEdge 1800 true) := by
  decide

/-- Events of two agents wait: a step exists whichever the arbiter takes. -/
theorem witness_EventsAreTakenOnceInIssueOrder :
    let s := (waiting .fastTimer 0x0100000000000000#64).arrive .host 0x0400000000000000#64
    s.resetAsserted = false ∧ s.pending.ready = [.fastTimer, .host] ∧ ∃ t, step s = .next t := by
  refine ⟨rfl, rfl, ?_⟩
  simp only [step, oneStep, State.nextEvent, State.nextAgent]
  rcases Nat.mod_two_eq_zero_or_one
    (Config.freeChoice ((waiting .fastTimer 0x0100000000000000#64).arrive .host
      0x0400000000000000#64).freeIndex) with h | h
  · exact ⟨_, by
      rw [show arbitrate _ _ = some .fastTimer from congrArg ([Agent.fastTimer, .host][·]?) h]; rfl⟩
  · exact ⟨_, by
      rw [show arbitrate _ _ = some .host from congrArg ([Agent.fastTimer, .host][·]?) h]; rfl⟩

/-- With two agents ready, each can be the one that is taken. -/
theorem witness_ArbiterCanPickAnyReadyAgent :
    arbitrate 0 [.fastTimer, .preciseTimer] = some .fastTimer ∧
    arbitrate 1 [.fastTimer, .preciseTimer] = some .preciseTimer := by
  decide

theorem witness_EveryStepAdvancesTheTracePosition :
    (waiting .host 0x0300000000000064#64).resetAsserted = false ∧
    (∃ t, step (waiting .host 0x0300000000000064#64) = .next t) ∧
    ∃ t, exec .fastTick (clock 5 5998 998 998) = .next t :=
  ⟨rfl, ⟨_, rfl⟩, ⟨_, rfl⟩⟩

theorem witness_CommandsDoNotSeePendingEvents :
    ∃ t, exec .readTime (waiting .comparator 0x1000000000000064#64) = .next t :=
  ⟨_, rfl⟩

theorem witness_ResetClearsEverything :
    (decoder true 17 0x454D2545B1228F4).assertReset.resetAsserted = true := rfl

/-- Both sides of the park: 998 and 999. -/
theorem witness_FastTickAdvancesUntilThePark :
    (clock 5 5998 998 998).sync1.toNat < 999 ∧ 999 ≤ (clock 5 5999 999 999).sync1.toNat := by
  decide

/-- The three cases, each at its boundary: one millisecond early, exactly due at second 0, exactly
due at second 1. -/
theorem witness_CorrCheckTakesOneSecondBack :
    let p : PeriodicEvent := ⟨500, 1, 500, 0⟩
    ((clock 0 999 0 0).setEntry 1 p).entry? 1 = some p ∧ ¬ FiresAt p 999 ∧
    ((clock 0 1000 0 0).setEntry 1 p).entry? 1 = some p ∧ FiresAt p 1000 ∧
    (clock 0 1000 0 0).seconds = 0 ∧
    ((clock 1 1000 0 0).setEntry 1 p).entry? 1 = some p ∧ (clock 1 1000 0 0).seconds ≠ 0 := by
  simp only [FiresAt]; decide

/-- Reset, then a fast tick that arrives and is taken. -/
theorem reachable_after_one_tick :
    ∃ t, Reachable t ∧ t.millis = 1 ∧ t.sync1 = 1 :=
  ⟨_, .step _ _ (.arrive .fastTimer 0x0100000000000000#64 _ (.reset 8 (by decide) (by decide))) rfl,
    rfl, rfl⟩

theorem witness_ReachedStatesKeepTheClockRelation : ∃ t, Reachable t ∧ t.sync1 = 1 :=
  let ⟨t, h, _, e⟩ := reachable_after_one_tick
  ⟨t, h, e⟩

theorem witness_FastTicksParkAtMost999 :
    (clock 7 7000 0 0).sync1.toNat ≤ 999 ∧ (clock 7 7999 999 999).sync1.toNat ≤ 999 := by
  decide

/-- The last second before the wrap, parked. -/
theorem witness_PreciseTickJumpsAtMostOneSecond :
    ClockInv (clock 4294967294 4294967294999 999 1000) ∧
    (clock 4294967294 4294967294999 999 1000).seconds.toNat < 2 ^ 32 - 1 := by
  simp only [ClockInv]; decide

theorem witness_TimeMovesBackwardOnlyBySetOrCorrection :
    ClockInv (clock 100 100500 500 500) ∧
    (∃ t, exec .preciseTick (clock 100 100500 500 500) = .next t) ∧
    (∀ v, Instr.preciseTick ≠ .setTime v) ∧ (∀ k, Instr.preciseTick ≠ .corrCheck k) ∧
    (clock 100 100500 500 500).seconds.toNat ≠ 2 ^ 32 - 1 := by
  refine ⟨by simp only [ClockInv]; decide, ⟨_, rfl⟩, ?_, ?_, by decide⟩ <;> intro _ h <;> cases h

/-- A second of 1000 and one of 999 fast ticks, with a SET_TIME inside. -/
theorem witness_DriftErrorCountsTheFastTicks :
    (clock 7 7000 0 0).sync2 = 0 ∧
    ∀ n ∈ [999, 1000],
      Instr.preciseTick ∉ Instr.setTime 50 :: List.replicate n .fastTick ∧
      (Instr.setTime 50 :: List.replicate n .fastTick).count .fastTick = n := by
  refine ⟨rfl, fun n _ => ⟨by simp, by simp⟩⟩

theorem witness_ClockStandsWithoutPreciseTicks :
    ClockInv (clock 9 9998 998 998) ∧
    ∀ c ∈ [Instr.fastTick, .fastTick, .readTime],
      c.opcode ≠ .preciseTick ∧ c.opcode ≠ .setTime ∧ c.opcode ≠ .corrCheck := by
  simp only [ClockInv]; decide

/-- V40. -/
theorem witness_SimultaneousTicksEndInTwoStates :
    (clock 9 9998 998 998).sync1 = 998 ∧ (clock 9 9998 998 998).sync2 = 998 := by
  decide

/-- Exhausted; due to the millisecond; a millisecond early; bounded and unbounded. -/
theorem witness_OccurrenceFunction :
    (∃ p : PeriodicEvent, p.max ≠ 0 ∧ p.max.toNat ≤ p.count.toNat) ∧
    (∃ p : PeriodicEvent, p.max ≠ 0 ∧ ¬ p.max.toNat ≤ p.count.toNat ∧
      p.last.toNat + p.delay.toNat ≤ (1000 : Word64).toNat) ∧
    (∃ p : PeriodicEvent, p.max = 0 ∧ (999 : Word64).toNat < p.last.toNat + p.delay.toNat) :=
  ⟨⟨⟨500, 2, 1000, 2⟩, by decide, by decide⟩, ⟨⟨500, 2, 500, 1⟩, by decide, by decide, by decide⟩,
    ⟨⟨500, 0, 500, 0⟩, by decide, by decide⟩⟩

theorem witness_PeConfigCreatesAnArmedEntry :
    (7 : Byte).toNat < State.reset.nPE ∧ (255 : Byte).toNat < (State.resetWith 256).nPE :=
  ⟨by decide, by
    show _ < (List.replicate 256 PeriodicEvent.zero).length
    rw [List.length_replicate]; decide⟩

/-- Not due, due, and due for the last time (count 1 of 2). -/
theorem witness_PeOccurredPollsTheEntry :
    let p : PeriodicEvent := ⟨500, 2, 500, 1⟩
    ((clock 0 999 0 0).setEntry 0 p).entry? 0 = some p ∧ ¬ FiresAt p 999 ∧
    ((clock 0 1000 0 0).setEntry 0 p).entry? 0 = some p ∧ FiresAt p 1000 := by
  simp only [FiresAt]; decide

theorem witness_PeResetRearmsTheEntry :
    ((clock 0 1600 0 0).setEntry 7 ⟨500, 2, 1000, 2⟩).entry? 7 = some ⟨500, 2, 1000, 2⟩ := by
  decide

theorem witness_ReadPeReturnsTheEntry :
    State.reset.entry? 0 = some PeriodicEvent.zero ∧ State.reset.entry? 7 = some PeriodicEvent.zero := by
  decide

theorem witness_MissingEntryIsIllegal :
    (Instr.readPe 8).index? = some 8 ∧ State.reset.nPE ≤ (8 : Byte).toNat := by
  decide

/-- A firing at 1500, a poll a millisecond before 2000; and an entry of delay 0. -/
theorem witness_EntryFiresOncePerWindow :
    let s := (clock 1 1500 500 500).setEntry 0 ⟨500, 0, 1000, 0⟩
    s.entry? 0 = some ⟨500, 0, 1000, 0⟩ ∧ firesBy 0 (.peOccurred 0) s = true ∧
    (∃ t, exec (.peOccurred 0) s = .next t ∧
      staysBelow (s.millis.toNat + 500) [.fastTick, .peOccurred 0] t) ∧
    [Instr.fastTick, .peOccurred 0].all (fun x => !rearms 0 x) = true ∧
    ((clock 0 7 0 0).setEntry 4 ⟨0, 0, 7, 0⟩).entry? 4 = some ⟨0, 0, 7, 0⟩ ∧
    PeriodicEvent.exhausted ⟨0, 0, 7, 0⟩ = false :=
  ⟨rfl, by decide, ⟨_, rfl, by decide, by decide, by show _ < _; decide⟩, by decide, rfl, by decide⟩

/-- V15: reset a millisecond before the old deadline, and time stays below the new one. -/
theorem witness_ResetRestartsTheWindow :
    let s := (clock 1 1499 499 499).setEntry 0 ⟨500, 0, 1000, 0⟩
    s.entry? 0 = some ⟨500, 0, 1000, 0⟩ ∧
    [Instr.fastTick, .peOccurred 0].all (fun x => !rearms 0 x) = true ∧
    ∃ t, exec (.peReset 0) s = .next t ∧
      staysBelow (s.millis.toNat + 500) [.fastTick, .peOccurred 0] t :=
  ⟨rfl, by decide, _, rfl, by decide, by decide, by show _ < _; decide⟩

/-- A bounded entry that reaches its max of 1, and an unbounded one. -/
theorem witness_BoundedEntryFiresAtMostMaxTimes :
    let s := (clock 0 500 500 500).setEntry 0 ⟨500, 1, 0, 0⟩
    let cs := [Instr.peOccurred 0, .peOccurred 0, .corrCheck 0]
    s.entry? 0 = some ⟨500, 1, 0, 0⟩ ∧ cs.all (fun x => !rearms 0 x) = true ∧
    firings 0 cs s = 1 ∧ (1 : Byte) ≠ 0 ∧
    ((clock 0 500 500 500).setEntry 0 ⟨500, 0, 0, 0⟩).entry? 0 = some ⟨500, 0, 0, 0⟩ := by
  decide

/-- V50: time set back, under an entry that is armed far ahead; and a correction on another entry. -/
theorem witness_BackwardTimeStallsEntries :
    let s := (clock 500 500000 0 0).setEntry 6 ⟨1000, 0, 500000, 0⟩
    s.entry? 6 = some ⟨1000, 0, 500000, 0⟩ ∧ (1 : Byte) ≠ 6 ∧
    (∃ t, exec (.corrCheck 1) s = .next t ∧ staysBelow 501000 [.peOccurred 6] t) ∧
    (∃ t, exec (.setTime 100) s = .next t ∧ staysBelow 501000 [.fastTick, .peOccurred 6] t) ∧
    [Instr.fastTick, .peOccurred 6].all (fun x => !rearms 6 x) = true :=
  ⟨rfl, by decide, ⟨_, rfl, by decide, by show _ < _; decide⟩,
    ⟨_, rfl, by decide, by decide, by show _ < _; decide⟩,
    by decide⟩

/-- The second firing of an entry armed at 1000 with delay 500. -/
theorem witness_FiringsNeverRunAhead :
    let s := (clock 1 1500 500 500).setEntry 0 ⟨500, 0, 1000, 0⟩
    let cs := [Instr.peOccurred 0, .preciseTick]
    s.entry? 0 = some ⟨500, 0, 1000, 0⟩ ∧ cs.all (fun x => !rearms 0 x) = true ∧
    firings 0 cs s = 1 ∧ ∃ u, runAll cs s = .next u ∧ firesBy 0 (.peOccurred 0) u = true :=
  ⟨rfl, by decide, by decide, _, rfl, by decide⟩

/-- The boundaries of R170, V55 to V66. -/
theorem witness_EdgeBands :
    [0, 30, 31, 49, 50, 149, 150, 300, 301, 1500, 1501, 4294967295].map band =
      [.ignored, .ignored, .noise, .noise, .zero, .zero, .one, .one, .noise, .noise, .gap, .gap] := by
  decide

/-- Off; a bounce of 30; noise while idle at 31, 49, 301 and 1500. -/
theorem witness_EdgesWithoutEffect :
    State.reset.enabled = false ∧ (30 : Word32).toNat ≤ 30 ∧
    (decoder false 0 0).streaming = false ∧
    (31 ≤ (31 : Word32).toNat ∧ (49 : Word32).toNat ≤ 49) ∧
    (301 ≤ (301 : Word32).toNat ∧ (1500 : Word32).toNat ≤ 1500) := by
  decide

theorem witness_GapWhileIdleStartsStreaming :
    (decoder false 0 5).enabled = true ∧ (decoder false 0 5).streaming = false ∧
    1500 < (1501 : Word32).toNat := by
  decide

/-- Cursors 59, 60 and 61. -/
theorem witness_GapWhileStreamingEndsTheFrame :
    (decoder true 60 0).enabled = true ∧ (decoder true 60 0).streaming = true ∧
    1500 < (1501 : Word32).toNat ∧ (decoder true 60 0).cursor.val = 60 ∧
    (decoder true 59 0).cursor.val ≠ 60 ∧ (decoder true 61 0).cursor.val ≠ 60 := by
  decide

/-- Both bits, at the ends of their bands, at cursors 59 to 61. -/
theorem witness_ActivePulseTakesOneBit :
    (∀ c ∈ [(59 : Fin 62), 60, 61], (decoder true c 0).enabled = true ∧
      (decoder true c 0).streaming = true) ∧
    (50 ≤ (50 : Word32).toNat ∧ (149 : Word32).toNat ≤ 149) ∧
    (150 ≤ (150 : Word32).toNat ∧ (300 : Word32).toNat ≤ 300) := by
  decide

theorem witness_InactivePulseOnlyReports :
    (decoder true 7 0).enabled = true ∧ (decoder true 7 0).streaming = true ∧
    50 ≤ (50 : Word32).toNat ∧ (300 : Word32).toNat ≤ 300 := by
  decide

theorem witness_IdlePulseReportsByTheDraw :
    (decoder false 0 0).enabled = true ∧ (decoder false 0 0).streaming = false ∧
    50 ≤ (50 : Word32).toNat ∧ (300 : Word32).toNat ≤ 300 := by
  decide

theorem witness_NoiseWhileStreamingAborts :
    (decoder true 7 0).enabled = true ∧ (decoder true 7 0).streaming = true ∧
    (31 ≤ (49 : Word32).toNat ∧ (49 : Word32).toNat ≤ 49) ∧
    (301 ≤ (1500 : Word32).toNat ∧ (1500 : Word32).toNat ≤ 1500) := by
  decide

/-- Both outcomes of the decode are met, V81 and V88. -/
theorem witness_FrameDecodeAndParity :
    frameValid 0x454D2545B1228F4 = true ∧ frameValid 0x454D2544B1228F4 = false := by
  decide

/-- Streaming starts; a gap while streaming; a decode. -/
theorem witness_FramesAlternate :
    (∃ t, exec (.dcfEdge 1501 true) (decoder false 0 0) = .next t ∧
      (decoder false 0 0).streaming = false ∧ t.streaming = true) ∧
    (∃ t, exec (.dcfEdge 1501 false) (decoder true 60 0x454D2545B1228F4) = .next t ∧
      t.outs = (decoder true 60 0x454D2545B1228F4).outs ++ [.frameOk 58 22 25 6 15]) :=
  ⟨⟨_, rfl, rfl, by decide⟩, ⟨_, rfl, by decide⟩⟩

/-- Streams of any number of pulses of the bit 1, so of 59, 60 and 61. -/
theorem witness_WholeFrameDecodesItsSixtyPulses :
    (decoder false 0 5).enabled = true ∧ (decoder false 0 5).streaming = false ∧
    1500 < (1501 : Word32).toNat ∧
    ∀ n : Nat, List.Forall₂ IsPulse (List.replicate n true) (List.replicate n 150) := by
  refine ⟨rfl, rfl, by decide, fun n => ?_⟩
  induction n with
  | zero => exact .nil
  | succ n ih => exact .cons rfl ih

theorem witness_OnlyTheListedCommandsWriteEachRegister :
    let s := (clock 0 500 500 500).setEntry 0 ⟨500, 1, 0, 0⟩
    ∃ t, exec (.peOccurred 0) s = .next t ∧ s.entry? 0 = some ⟨500, 1, 0, 0⟩ ∧
      t.entry? 0 = some ⟨500, 1, 500, 1⟩ ∧ t.entry? 7 = s.entry? 7 :=
  ⟨_, rfl, rfl, by decide, by decide⟩

theorem witness_RecordsOfEachCommand :
    ∃ t, exec (.readPe 8) State.reset = .next t ∧
      t.outs = [.fault (.illegal 0x2308000000000000#64)] :=
  ⟨_, rfl, by decide⟩

theorem witness_FaultsChangeNothingElse :
    let s := (State.reset.setEntry 2 ⟨0, 1, 0, 0⟩).arrive .host 0x0602000000000000#64
    s.resetAsserted = false ∧
    ∃ t, step s = .next t ∧ t.outs = s.outs ++ [.fault .corrUnderflow] ∧ t.faultFree = false :=
  ⟨rfl, _, rfl, by decide, by decide⟩

/-- One write, one read, one poll and one correction check, each run twice. -/
theorem witness_RepeatedCommands :
    (∃ t u, exec (.setTime 50) (clock 100 100500 500 500) = .next t ∧ exec (.setTime 50) t = .next u) ∧
    (∃ t u, exec .readDcf (decoder true 3 5) = .next t ∧ exec .readDcf t = .next u) ∧
    (∃ t u, exec (.peOccurred 0) ((clock 1 1500 500 500).setEntry 0 ⟨500, 0, 1000, 0⟩) = .next t ∧
      exec (.peOccurred 0) t = .next u ∧ (500 : Word32) ≠ 0) ∧
    (∃ t u, ClockInv ((clock 1005 1005700 700 700).setEntry 1 ⟨5000, 2, 1000000, 0⟩) ∧
      exec (.corrCheck 1) ((clock 1005 1005700 700 700).setEntry 1 ⟨5000, 2, 1000000, 0⟩) = .next t ∧
      t.outs = [.corr true] ∧ exec (.corrCheck 1) t = .next u) :=
  ⟨⟨_, _, rfl, rfl⟩, ⟨_, _, rfl, rfl⟩, ⟨_, _, rfl, rfl, by decide⟩,
    ⟨_, _, ⟨by decide, by decide, by decide⟩, rfl, by decide, rfl⟩⟩

theorem witness_DcfApplySetsTheClockAndRearmsAll :
    State.reset.nPE ≤ 256 ∧ (State.resetWith 256).nPE ≤ 256 ∧
    State.reset.entry? 7 = some PeriodicEvent.zero :=
  ⟨by decide, by
    show (List.replicate 256 PeriodicEvent.zero).length ≤ _
    rw [List.length_replicate], by decide⟩

theorem witness_BootArmsEntriesFromTheSetTime :
    (3 : Byte) ∈ (1 : Byte) :: [((3 : Byte), (500 : Word32), (2 : Byte))].map (fun x => x.1) ∧
    ∃ t, runAll (bootSequence (some 1000) [(3, 500, 2)] 1 true) State.reset = .next t ∧
      t.entry? 3 = some ⟨500, 2, 1000000, 0⟩ ∧
      t.entry? 1 = some ⟨Config.pCorrDelayMs, 1, 1000000, 0⟩ :=
  ⟨by decide, _, rfl, rfl, rfl⟩

theorem witness_InvariantHoldsAtReset : 1 ≤ 1 ∧ 256 ≤ 256 := by
  decide

/-- Streaming with seven bits taken, a bounded entry fired once, an event waiting. -/
def busy : State :=
  ((({ clock 9 9998 998 998 with enabled := true, streaming := true, cursor := 7, buf := 0x55 } :
    State).setEntry 0 ⟨500, 2, 9000, 1⟩).arrive .comparator 0x10000000000000C8#64)

theorem witness_EveryStepKeepsTheInvariant : Inv busy ∧ ∃ t, step busy = .next t := by
  refine ⟨⟨⟨by decide, by decide, by decide⟩, ?_, by decide, ⟨by decide, by decide, fun _ k hk => ?_⟩⟩,
    _, rfl⟩
  · simp only [EntryInv]; decide
  · have h7 : (7 : Nat) ≤ k := hk
    show (0x55#60).getLsbD k = false
    rw [BitVec.getLsbD_ofNat]
    by_cases h : k < 60
    · rw [Nat.testBit_lt_two_pow (Nat.lt_of_lt_of_le (by decide) (Nat.pow_le_pow_right (by decide) h7))]
      simp
    · simp [h]

end Sys2Proof.Tests
end

/-!
PROOFS of 00_scope.md: when the block has a step (R3), and what a step with a decoded word runs.
-/

namespace Sys2Proof.Machine

/-! ### Every command ends in `done` -/

/-- A command on an entry ends in `done` if its body does: a missing entry's fault is a next state
too (R221). -/
theorem withEntry_eq_done {i : Byte} {c : Instr} {s : State}
    {k : PeriodicEvent → Host.Outcome State Fault Refusal} (hk : ∀ p, ∃ u : State, k p = u.done) :
    ∃ u : State, withEntry i c s k = u.done := by
  cases he : s.entry? i with
  | some p => simpa only [withEntry_some k he] using hk p
  | none => exact ⟨_, withEntry_none k he⟩

/-- The three ends of CORR_CHECK on an entry: not fired, underflow, fired (R105). -/
theorem corrCheckEntry_eq_done (i : Byte) (s : State) (p : PeriodicEvent) :
    ∃ u : State, corrCheckEntry i s p = u.done := by
  unfold corrCheckEntry
  split
  · exact ⟨_, rfl⟩
  · split
    · exact ⟨_, rfl⟩
    · exact ⟨_, rfl⟩

/-- No command faults or is refused: each one, in every state, leaves only `pc <- pc + 1` to do. -/
theorem exec_eq_done (i : Instr) (s : State) : ∃ u : State, exec i s = u.done := by
  cases i with
  | corrCheck k => exact withEntry_eq_done (corrCheckEntry_eq_done k s)
  | peConfig k d m => exact withEntry_eq_done fun _ => ⟨_, rfl⟩
  | peOccurred k => exact withEntry_eq_done fun _ => ⟨_, rfl⟩
  | peReset k => exact withEntry_eq_done fun _ => ⟨_, rfl⟩
  | readPe k => exact withEntry_eq_done fun _ => ⟨_, rfl⟩
  | fastTick | preciseTick | setTime | readTime | readDiag | dcfEdge | dcfOn | dcfOff | readDcf =>
    exact ⟨_, rfl⟩

/-! ### What a step answers -/

/-- Input waits: the reset input is asserted (R250), or an agent has an event pending (R34). -/
def State.HasInput (s : State) : Prop :=
  s.resetAsserted = true ∨ ∃ a, s.pending.queue a ≠ []

theorem not_hasInput_iff {s : State} :
    ¬ s.HasInput ↔ s.resetAsserted = false ∧ ∀ a, s.pending.queue a = [] := by
  simp [State.HasInput]

theorem hasInput_of_nextEvent {s : State} {a : Agent} {w : Word64}
    (h : s.nextEvent = some (a, w)) : s.HasInput := by
  refine .inr ⟨a, ?_⟩
  rw [nextEvent_eq_some h]
  exact List.cons_ne_nil _ _

/-- The two answers of a step: a next state when input waits, the fault when none does. -/
theorem step_answers (s : State) :
    (s.HasInput ∧ ∃ t, step s = .next t) ∨ (¬ s.HasInput ∧ step s = .fault .noPendingEvent) := by
  obtain ⟨hr, hs⟩ | ⟨hr, hn, hs⟩ | ⟨a, w, -, hn, ⟨e, -, hs⟩ | ⟨i, -, hs⟩⟩ := oneStep_cases s
  · exact .inl ⟨.inl hr, _, hs⟩
  · exact .inr ⟨not_hasInput_iff.2 ⟨hr, nextEvent_eq_none.1 hn⟩, hs⟩
  · exact .inl ⟨hasInput_of_nextEvent hn, _, hs⟩
  · obtain ⟨u, hu⟩ := exec_eq_done i (s.takeEvent a)
    exact .inl ⟨hasInput_of_nextEvent hn, _, hs.trans hu⟩

theorem step_eq_next_iff (s : State) : (∃ t, step s = .next t) ↔ s.HasInput := by
  obtain ⟨hin, ht⟩ | ⟨hin, hf⟩ := step_answers s
  · exact iff_of_true ht hin
  · simp [hf, hin]

theorem step_eq_noPendingEvent_iff (s : State) :
    step s = .fault .noPendingEvent ↔ ¬ s.HasInput := by
  obtain ⟨hin, t, ht⟩ | ⟨hin, hf⟩ := step_answers s
  · simp [ht, hin]
  · exact iff_of_true hf hin

/-- Without reset, a step is the run of the next event. -/
theorem step_eq_runEvent {s : State} {a : Agent} {w : Word64} (hr : s.resetAsserted = false)
    (hn : s.nextEvent = some (a, w)) : step s = runEvent a w s := by
  simp [step, oneStep, hr, hn]

theorem runEvent_of_decode_ok {s : State} {w : Word64} {i : Instr} (a : Agent)
    (hd : decode s.nPE w = .ok i) : runEvent a w s = exec i (s.takeEvent a) := by
  simp [runEvent, hd]

/-! ### The obligations -/

/-- Settles O8: both answers are decided by whether input waits. -/
theorem stepStopsOnlyWithoutInput : Obligations.StepStopsOnlyWithoutInput := by
  intro s
  exact ⟨step_eq_next_iff s, (step_eq_noPendingEvent_iff s).trans not_hasInput_iff⟩

/-- Settles O7: the step runs the event, and the event runs its decoded command. -/
theorem stepRunsTheDecodedCommand : Obligations.StepRunsTheDecodedCommand := by
  intro s a w i hr hn hd
  calc step s = runEvent a w s := step_eq_runEvent hr hn
    _ = exec i (s.takeEvent a) := runEvent_of_decode_ok a hd

end Sys2Proof.Machine

/-!
PROOFS of 10_state.md: what a command reads and what it writes.

A command neither reads nor, apart from the advance and its own record, changes its context: the
trace position, the pending events, the records emitted so far and the reset input
(`ContextBlind`).  The registers and entries it writes are those of its `CommandEffect`.
-/

namespace Sys2Proof.Machine

/-! ### The context of a command -/

/-- `s` with the trace position, pending events, records and reset input of `c`. -/
def State.inContext (s c : State) : State :=
  { s with pc := c.pc, pending := c.pending, outs := c.outs, resetAsserted := c.resetAsserted }

@[simp] theorem inContext_enabled (s c : State) : (s.inContext c).enabled = s.enabled := rfl
@[simp] theorem inContext_streaming (s c : State) : (s.inContext c).streaming = s.streaming := rfl

/-- Emit at most one record. -/
def State.emit? (r : Option Record) (s : State) : State :=
  match r with
  | none => s
  | some r => s.emit r

@[simp] theorem emit?_none (s : State) : s.emit? none = s := rfl
@[simp] theorem emit?_some (s : State) (r : Record) : s.emit? (some r) = s.emit r := rfl

theorem emit?_eq (r : Option Record) (s : State) :
    s.emit? r = { s with outs := s.outs ++ r.toList } := by
  cases r with
  | none => simp
  | some r => rfl

/-- The command takes `s` to one and the same state `u`, and emits one and the same record or none,
in whatever context it runs: to the context it only adds that record and the advance. -/
def ContextBlind (e : State → Host.Outcome State Fault Refusal) : Prop :=
  ∀ s : State, ∃ (u : State) (r : Option Record), ∀ c : State,
    e (s.inContext c) = (u.inContext (c.emit? r)).done

/-! ### CORR_CHECK on an entry (R105) -/

theorem corrCheckEntry_of_idle {i : Byte} {s : State} {p : PeriodicEvent}
    (h : occ p s.now = (false, p)) : corrCheckEntry i s p = (s.emit (.corr false)).done := by
  simp [corrCheckEntry, h]

theorem corrCheckEntry_of_underflow {i : Byte} {s : State} {p : PeriodicEvent}
    (h : occ p s.now = (true, p.fire s.now)) (h0 : s.seconds = 0) :
    corrCheckEntry i s p = s.raise .corrUnderflow := by
  simp [corrCheckEntry, h, h0]

theorem corrCheckEntry_of_fires {i : Byte} {s : State} {p : PeriodicEvent}
    (h : occ p s.now = (true, p.fire s.now)) (h0 : s.seconds ≠ 0) :
    corrCheckEntry i s p =
      (((s.setEntry i (p.fire s.now)).setClock (s.seconds - 1)).emit (.corr true)).done := by
  rw [corrCheckEntry, h]
  exact if_neg h0

/-! ### The arbitration of FAST_TICK (R100) -/

theorem countMilli_of_below {s : State} (h : s.sync1.toNat < Config.syncPark) :
    s.countMilli = { s with millis := s.millis + 1, sync1 := s.sync1 + 1 } := if_pos h

theorem countMilli_of_parked {s : State} (h : ¬ s.sync1.toNat < Config.syncPark) :
    s.countMilli = s := if_neg h

/-! ### Every command is blind to its context -/

theorem fastTick_contextBlind : ContextBlind execFastTick := by
  intro s
  by_cases h : s.sync1.toNat < Config.syncPark
  · refine ⟨({ s with millis := s.millis + 1, sync1 := s.sync1 + 1 } : State).countTick, none,
      fun c => ?_⟩
    rw [execFastTick, countMilli_of_below (s := s.inContext c) h]
    rfl
  · refine ⟨s.countTick, none, fun c => ?_⟩
    rw [execFastTick, countMilli_of_parked (s := s.inContext c) h]
    rfl

/-- An entry is the same one in every context, and a missing one reports its fault in each. -/
theorem withEntry_contextBlind (i : Byte) (c : Instr)
    {k : State → PeriodicEvent → Host.Outcome State Fault Refusal}
    (hk : ∀ p, ContextBlind fun s => k s p) : ContextBlind fun s => withEntry i c s (k s) := by
  intro s
  cases he : s.entry? i with
  | some p =>
    obtain ⟨u, r, h⟩ := hk p s
    exact ⟨u, r, fun c' => (withEntry_some (s := s.inContext c') _ he).trans (h c')⟩
  | none =>
    exact ⟨s, some (.fault (.illegal (encode c))),
      fun c' => withEntry_none (s := s.inContext c') _ he⟩

/-- CORR_CHECK decides by the entry, `millis` and `seconds` (R105). -/
theorem corrCheckEntry_contextBlind (i : Byte) (p : PeriodicEvent) :
    ContextBlind fun s => corrCheckEntry i s p := by
  intro s
  obtain ⟨-, -, ho⟩ | ⟨-, ho⟩ := occ_cases p s.now
  · by_cases h0 : s.seconds = 0
    · exact ⟨s, some (.fault .corrUnderflow), fun c =>
        corrCheckEntry_of_underflow (s := s.inContext c) ho h0⟩
    · exact ⟨(s.setEntry i (p.fire s.now)).setClock (s.seconds - 1), some (.corr true), fun c =>
        corrCheckEntry_of_fires (s := s.inContext c) ho h0⟩
  · exact ⟨s, some (.corr false), fun c => corrCheckEntry_of_idle (s := s.inContext c) ho⟩

theorem pulseStreaming_contextBlind (level v : Bool) :
    ContextBlind fun s => (pulseStreaming level v s).done := by
  intro s
  cases level with
  | false => exact ⟨takeBit v s, some (.bitOk v), fun _ => rfl⟩
  | true => exact ⟨s, some .bitFail, fun _ => rfl⟩

theorem pulseIdle_contextBlind (draw : Bool) :
    ContextBlind fun s => (pulseIdle draw s).done := by
  intro s
  cases draw with
  | false => exact ⟨s.useFree, none, fun _ => rfl⟩
  | true => exact ⟨s.useFree, some .bitFail, fun _ => rfl⟩

theorem pulse_contextBlind (draw level v : Bool) :
    ContextBlind fun s => (pulse draw level v s).done := by
  intro s
  cases hs : s.streaming with
  | false => simpa [pulse, hs] using pulseIdle_contextBlind draw s
  | true => simpa [pulse, hs] using pulseStreaming_contextBlind level v s

theorem noiseEdge_contextBlind : ContextBlind fun s => (noiseEdge s).done := by
  intro s
  cases hs : s.streaming with
  | false => exact ⟨s, none, fun c => by simp [noiseEdge, hs]⟩
  | true =>
    refine ⟨s.goIdle, some .bitFail, fun c => ?_⟩
    simp only [noiseEdge, inContext_streaming, hs]
    rfl

/-- DCF_EDGE decides by `enabled`, the band of the edge and `streaming` (R171). -/
theorem edgeEffect_contextBlind (draw : Bool) (e : Word32) (level : Bool) :
    ContextBlind fun s => (edgeEffect draw e level s).done := by
  intro s
  cases he : s.enabled with
  | false => exact ⟨s, none, fun c => by simp [edgeEffect, he]⟩
  | true =>
    cases hb : band e with
    | ignored => exact ⟨s, none, fun c => by simp [edgeEffect, he, hb]⟩
    | zero => simpa [edgeEffect, he, hb] using pulse_contextBlind draw level false s
    | one => simpa [edgeEffect, he, hb] using pulse_contextBlind draw level true s
    | gap =>
      cases hs : s.streaming with
      | false =>
        refine ⟨startFrame s, none, fun c => ?_⟩
        simp only [edgeEffect, inContext_enabled, he, hb, inContext_streaming, hs]
        rfl
      | true =>
        refine ⟨s.goIdle, some (frameRecord s), fun c => ?_⟩
        simp only [edgeEffect, inContext_enabled, he, hb, inContext_streaming, hs]
        rfl
    | noise => simpa [edgeEffect, he, hb] using noiseEdge_contextBlind s

theorem exec_contextBlind (i : Instr) : ContextBlind (exec i) := by
  cases i with
  | fastTick => exact fastTick_contextBlind
  | corrCheck k => exact withEntry_contextBlind k _ (corrCheckEntry_contextBlind k)
  | dcfEdge e level =>
    exact fun s => edgeEffect_contextBlind (Config.freeDraw s.freeIndex) e level s
  | preciseTick =>
    exact fun s => ⟨(s.latchDrift.setClock (s.seconds + 1)).clearSync, none, fun _ => rfl⟩
  | setTime v => exact fun s => ⟨s.setClock v, some .ack, fun _ => rfl⟩
  | readTime => exact fun s => ⟨s, some (.time s.seconds s.millis), fun _ => rfl⟩
  | readDiag => exact fun s => ⟨s, some (.diag s.sync1 s.sync2 s.driftError), fun _ => rfl⟩
  | dcfOn => exact fun s => ⟨{ s.goIdle with enabled := true }, some .ack, fun _ => rfl⟩
  | dcfOff => exact fun s => ⟨{ s.goIdle with enabled := false }, some .ack, fun _ => rfl⟩
  | readDcf =>
    exact fun s => ⟨s, some (.dcfstat s.enabled s.streaming s.cursorField s.buf), fun _ => rfl⟩
  | peConfig k d m =>
    exact withEntry_contextBlind k _ fun p s =>
      ⟨s.setEntry k (PeriodicEvent.arm s.now { p with delay := d, max := m }), some .ack,
        fun _ => rfl⟩
  | peOccurred k =>
    exact withEntry_contextBlind k _ fun p s =>
      ⟨s.setEntry k (occ p s.now).2, some (.fired (occ p s.now).1), fun _ => rfl⟩
  | peReset k =>
    exact withEntry_contextBlind k _ fun p s =>
      ⟨s.setEntry k (p.arm s.now), some .ack, fun _ => rfl⟩
  | readPe k =>
    exact withEntry_contextBlind k _ fun p s =>
      ⟨s, some (.pestat p.delay p.max p.last p.count), fun _ => rfl⟩

/-- A command adds to its context one record or none and the advance, the same in every context. -/
theorem exec_inContext {i : Instr} {s t : State} (h : exec i s = .next t) :
    ∃ r : Option Record, Emits r.toList s t ∧ SameInputs s t ∧
      ∀ c, exec i (s.inContext c) = .next (t.inContext (c.emit? r).advance) := by
  obtain ⟨u, r, hu⟩ := exec_contextBlind i s
  cases h.symm.trans (hu s)
  refine ⟨r, ?_, ?_, hu⟩
  · rw [emit?_eq]
    exact ⟨rfl, rfl⟩
  · rw [emit?_eq]
    exact ⟨rfl, rfl⟩

/-! ### What a command writes -/

/-- What command `i` does to `s` before the advance: one case per command and path. -/
inductive CommandEffect (s : State) : Instr → State → Prop where
  | countMilli (h : s.sync1.toNat < Config.syncPark) : CommandEffect s .fastTick
      ({ s with millis := s.millis + 1, sync1 := s.sync1 + 1 } : State).countTick
  | parked (h : Config.syncPark ≤ s.sync1.toNat) : CommandEffect s .fastTick s.countTick
  | preciseTick : CommandEffect s .preciseTick
      ((s.latchDrift.setClock (s.seconds + 1)).clearSync)
  | setTime (v : Word32) : CommandEffect s (.setTime v) ((s.setClock v).emit .ack)
  | readTime : CommandEffect s .readTime (s.emit (.time s.seconds s.millis))
  | readDiag : CommandEffect s .readDiag (s.emit (.diag s.sync1 s.sync2 s.driftError))
  | missingEntry {i : Instr} {k : Byte} (hk : i.index? = some k) (h : s.entry? k = none) :
      CommandEffect s i (s.emit (.fault (.illegal (encode i))))
  | corrIdle {k : Byte} {p : PeriodicEvent} (h : s.entry? k = some p)
      (ho : occ p s.now = (false, p)) : CommandEffect s (.corrCheck k) (s.emit (.corr false))
  | corrUnderflow {k : Byte} {p : PeriodicEvent} (h : s.entry? k = some p)
      (ho : occ p s.now = (true, p.fire s.now)) (h0 : s.seconds = 0) :
      CommandEffect s (.corrCheck k) (s.emit (.fault .corrUnderflow))
  | corrFires {k : Byte} {p : PeriodicEvent} (h : s.entry? k = some p)
      (ho : occ p s.now = (true, p.fire s.now)) (h0 : s.seconds ≠ 0) :
      CommandEffect s (.corrCheck k)
        (((s.setEntry k (p.fire s.now)).setClock (s.seconds - 1)).emit (.corr true))
  | dcfEdge (e : Word32) (level : Bool) : CommandEffect s (.dcfEdge e level)
      (edgeEffect (Config.freeDraw s.freeIndex) e level s)
  | dcfOn : CommandEffect s .dcfOn (({ s.goIdle with enabled := true } : State).emit .ack)
  | dcfOff : CommandEffect s .dcfOff (({ s.goIdle with enabled := false } : State).emit .ack)
  | readDcf : CommandEffect s .readDcf
      (s.emit (.dcfstat s.enabled s.streaming s.cursorField s.buf))
  | peConfig {k : Byte} {p : PeriodicEvent} (d : Word32) (m : Byte) (h : s.entry? k = some p) :
      CommandEffect s (.peConfig k d m)
        ((s.setEntry k (PeriodicEvent.arm s.now { p with delay := d, max := m })).emit .ack)
  | peOccurred {k : Byte} {p : PeriodicEvent} (h : s.entry? k = some p) :
      CommandEffect s (.peOccurred k)
        ((s.setEntry k (occ p s.now).2).emit (.fired (occ p s.now).1))
  | peReset {k : Byte} {p : PeriodicEvent} (h : s.entry? k = some p) :
      CommandEffect s (.peReset k) ((s.setEntry k (p.arm s.now)).emit .ack)
  | readPe {k : Byte} {p : PeriodicEvent} (h : s.entry? k = some p) :
      CommandEffect s (.readPe k) (s.emit (.pestat p.delay p.max p.last p.count))

/-- A command on an entry has an effect if its body has one on every entry. -/
theorem withEntry_effect {i : Instr} {k : Byte} {s : State}
    {body : PeriodicEvent → Host.Outcome State Fault Refusal} (hk : i.index? = some k)
    (hb : ∀ p, s.entry? k = some p → ∃ u, CommandEffect s i u ∧ body p = u.done) :
    ∃ u, CommandEffect s i u ∧ withEntry k i s body = u.done := by
  cases he : s.entry? k with
  | some p => simpa only [withEntry_some body he] using hb p he
  | none => exact ⟨_, .missingEntry hk he, withEntry_none body he⟩

theorem fastTick_effect (s : State) :
    ∃ u, CommandEffect s .fastTick u ∧ execFastTick s = u.done := by
  by_cases h : s.sync1.toNat < Config.syncPark
  · exact ⟨_, .countMilli h, by rw [execFastTick, countMilli_of_below h]⟩
  · exact ⟨_, .parked (Nat.le_of_not_lt h), by rw [execFastTick, countMilli_of_parked h]⟩

theorem corrCheckEntry_effect {k : Byte} {s : State} {p : PeriodicEvent}
    (he : s.entry? k = some p) :
    ∃ u, CommandEffect s (.corrCheck k) u ∧ corrCheckEntry k s p = u.done := by
  obtain ⟨-, -, ho⟩ | ⟨-, ho⟩ := occ_cases p s.now
  · by_cases h0 : s.seconds = 0
    · exact ⟨_, .corrUnderflow he ho h0, corrCheckEntry_of_underflow ho h0⟩
    · exact ⟨_, .corrFires he ho h0, corrCheckEntry_of_fires ho h0⟩
  · exact ⟨_, .corrIdle he ho, corrCheckEntry_of_idle ho⟩

/-- What a command does is one of the effects, and the advance. -/
theorem exec_effect (i : Instr) (s : State) : ∃ u, CommandEffect s i u ∧ exec i s = u.done := by
  cases i with
  | fastTick => exact fastTick_effect s
  | preciseTick => exact ⟨_, .preciseTick, rfl⟩
  | setTime v => exact ⟨_, .setTime v, rfl⟩
  | readTime => exact ⟨_, .readTime, rfl⟩
  | readDiag => exact ⟨_, .readDiag, rfl⟩
  | corrCheck k => exact withEntry_effect rfl fun _ he => corrCheckEntry_effect he
  | dcfEdge e level => exact ⟨_, .dcfEdge e level, rfl⟩
  | dcfOn => exact ⟨_, .dcfOn, rfl⟩
  | dcfOff => exact ⟨_, .dcfOff, rfl⟩
  | readDcf => exact ⟨_, .readDcf, rfl⟩
  | peConfig k d m => exact withEntry_effect rfl fun _ he => ⟨_, .peConfig d m he, rfl⟩
  | peOccurred k => exact withEntry_effect rfl fun _ he => ⟨_, .peOccurred he, rfl⟩
  | peReset k => exact withEntry_effect rfl fun _ he => ⟨_, .peReset he, rfl⟩
  | readPe k => exact withEntry_effect rfl fun _ he => ⟨_, .readPe he, rfl⟩

theorem effect_of_exec {i : Instr} {s t : State} (h : exec i s = .next t) :
    ∃ u, CommandEffect s i u ∧ t = u.advance := by
  obtain ⟨u, hu, he⟩ := exec_effect i s
  cases h.symm.trans he
  exact ⟨u, hu, rfl⟩

/-! ### What an edge leaves alone -/

/-- No register but `streaming`, `cursor` and `buf` differs. -/
def SameOutsideFrame (s t : State) : Prop := SameRtc s t ∧ SamePet s t ∧ t.enabled = s.enabled

theorem pulse_sameOutsideFrame (draw level v : Bool) (s : State) :
    SameOutsideFrame s (pulse draw level v s) := by
  unfold pulse pulseStreaming pulseIdle
  split
  · split <;> exact ⟨⟨rfl, rfl, rfl, rfl, rfl⟩, rfl, rfl⟩
  · split <;> exact ⟨⟨rfl, rfl, rfl, rfl, rfl⟩, rfl, rfl⟩

theorem noiseEdge_sameOutsideFrame (s : State) : SameOutsideFrame s (noiseEdge s) := by
  unfold noiseEdge
  split <;> exact ⟨⟨rfl, rfl, rfl, rfl, rfl⟩, rfl, rfl⟩

/-- DCF_EDGE writes only `streaming`, `cursor` and `buf` (R31 to R33). -/
theorem edgeEffect_sameOutsideFrame (draw : Bool) (e : Word32) (level : Bool) (s : State) :
    SameOutsideFrame s (edgeEffect draw e level s) := by
  unfold edgeEffect
  split
  · cases band e with
    | ignored => exact ⟨⟨rfl, rfl, rfl, rfl, rfl⟩, rfl, rfl⟩
    | zero => exact pulse_sameOutsideFrame draw level false s
    | one => exact pulse_sameOutsideFrame draw level true s
    | gap => dsimp only; split <;> exact ⟨⟨rfl, rfl, rfl, rfl, rfl⟩, rfl, rfl⟩
    | noise => exact noiseEdge_sameOutsideFrame s
  · exact ⟨⟨rfl, rfl, rfl, rfl, rfl⟩, rfl, rfl⟩

/-! ### The writers of each register -/

/-- The RTCS registers changed only under the commands the table lists (R21 to R25). -/
def RtcWritesListed (o : Opcode) (s t : State) : Prop :=
  (t.millis ≠ s.millis → o ∈ [.fastTick, .preciseTick, .setTime, .corrCheck]) ∧
  (t.seconds ≠ s.seconds → o ∈ [.preciseTick, .setTime, .corrCheck]) ∧
  (t.sync1 ≠ s.sync1 → o ∈ [.fastTick, .preciseTick]) ∧
  (t.sync2 ≠ s.sync2 → o ∈ [.fastTick, .preciseTick]) ∧
  (t.driftError ≠ s.driftError → o = .preciseTick)

/-- The decoder's registers changed only under the commands the table lists (R30 to R33). -/
def DcfWritesListed (o : Opcode) (s t : State) : Prop :=
  (t.enabled ≠ s.enabled → o ∈ [.dcfOn, .dcfOff]) ∧
  (t.streaming ≠ s.streaming → o ∈ [.dcfEdge, .dcfOn, .dcfOff]) ∧
  (t.cursor ≠ s.cursor → o ∈ [.dcfEdge, .dcfOn, .dcfOff]) ∧
  (t.buf ≠ s.buf → o = .dcfEdge)

/-- Entry `k` changed from `p` to `q` only as the table lets command `i` change it (R26 to R29). -/
def EntryWriteListed (i : Instr) (k : Byte) (p q : PeriodicEvent) : Prop :=
  (q ≠ p → i.index? = some k) ∧
  (q.delay ≠ p.delay ∨ q.max ≠ p.max → i.opcode = .peConfig) ∧
  (q.last ≠ p.last ∨ q.count ≠ p.count →
    i.opcode ∈ [.peConfig, .peOccurred, .peReset, .corrCheck])

/-- The entries of `t` are those of `s`, changed only as the table lets command `i` change them. -/
def EntryWritesListed (i : Instr) (s t : State) : Prop :=
  t.nPE = s.nPE ∧ ∀ (k : Byte) (p q : PeriodicEvent),
    s.entry? k = some p → t.entry? k = some q → EntryWriteListed i k p q

theorem SameRtc.writesListed {s t : State} (h : SameRtc s t) (o : Opcode) :
    RtcWritesListed o s t := by
  obtain ⟨hmillis, hseconds, hsync1, hsync2, hdrift⟩ := h
  simp [RtcWritesListed, hmillis, hseconds, hsync1, hsync2, hdrift]

theorem SameDcf.writesListed {s t : State} (h : SameDcf s t) (o : Opcode) :
    DcfWritesListed o s t := by
  obtain ⟨henabled, hstreaming, hcursor, hbuf⟩ := h
  simp [DcfWritesListed, henabled, hstreaming, hcursor, hbuf]

theorem EntryWriteListed.refl (i : Instr) (k : Byte) (p : PeriodicEvent) :
    EntryWriteListed i k p p := by
  simp [EntryWriteListed]

theorem SamePet.writesListed {s t : State} (h : SamePet s t) (i : Instr) :
    EntryWritesListed i s t := by
  have hentry : ∀ k, t.entry? k = s.entry? k := fun k => congrArg (·[k.toNat]?) h
  refine ⟨congrArg List.length h, fun k p q hp hq => ?_⟩
  rw [hentry, hp] at hq
  cases hq
  exact EntryWriteListed.refl i k p

/-- Writing `b` to `pe[j]` changes no entry but `pe[j]`. -/
theorem entryWritesListed_of_setEntry {i : Instr} {j : Byte} {s t : State} {a b : PeriodicEvent}
    (ha : s.entry? j = some a) (ht : SamePet (s.setEntry j b) t) (hab : EntryWriteListed i j a b) :
    EntryWritesListed i s t := by
  have hentry : ∀ k, t.entry? k = (s.setEntry j b).entry? k := fun k => congrArg (·[k.toNat]?) ht
  refine ⟨(congrArg List.length ht).trans (nPE_setEntry s j b), fun k p q hp hq => ?_⟩
  rw [hentry] at hq
  by_cases hk : k = j
  · subst hk
    rw [entry?_setEntry_self b (entry?_eq_some_lt ha)] at hq
    rw [ha] at hp
    cases hp
    cases hq
    exact hab
  · rw [entry?_setEntry_ne s b hk, hp] at hq
    cases hq
    exact EntryWriteListed.refl i k p

/-- The occurrence function writes `last` and `count` only (R140). -/
theorem occ_snd_settings (p : PeriodicEvent) (now : Word64) :
    (occ p now).2.delay = p.delay ∧ (occ p now).2.max = p.max := by
  obtain ⟨-, -, ho⟩ | ⟨-, ho⟩ := occ_cases p now
  · simp [ho]
  · simp [ho]

theorem CommandEffect.rtcWrites {i : Instr} {s u : State} (h : CommandEffect s i u) :
    RtcWritesListed i.opcode s u := by
  cases h with
  | countMilli | parked | preciseTick | setTime | corrFires =>
    simp [RtcWritesListed, Instr.opcode]
  | dcfEdge e level => exact (edgeEffect_sameOutsideFrame _ e level s).1.writesListed _
  | readTime | readDiag | missingEntry | corrIdle | corrUnderflow | dcfOn | dcfOff | readDcf
  | peConfig | peOccurred | peReset | readPe =>
    exact SameRtc.writesListed ⟨rfl, rfl, rfl, rfl, rfl⟩ _

theorem CommandEffect.dcfWrites {i : Instr} {s u : State} (h : CommandEffect s i u) :
    DcfWritesListed i.opcode s u := by
  cases h with
  | dcfOn | dcfOff => simp [DcfWritesListed, Instr.opcode]
  | dcfEdge e level =>
    obtain ⟨-, -, henabled⟩ := edgeEffect_sameOutsideFrame (Config.freeDraw s.freeIndex) e level s
    simp [DcfWritesListed, Instr.opcode, henabled]
  | countMilli | parked | preciseTick | setTime | readTime | readDiag | missingEntry | corrIdle
  | corrUnderflow | corrFires | readDcf | peConfig | peOccurred | peReset | readPe =>
    exact SameDcf.writesListed ⟨rfl, rfl, rfl, rfl⟩ _

theorem CommandEffect.entryWrites {i : Instr} {s u : State} (h : CommandEffect s i u) :
    EntryWritesListed i s u := by
  cases h with
  | corrFires h | peConfig d m h | peReset h =>
    refine entryWritesListed_of_setEntry h rfl ?_
    simp [EntryWriteListed, Instr.opcode, Instr.index?]
  | @peOccurred k p h =>
    refine entryWritesListed_of_setEntry h rfl ?_
    simp [EntryWriteListed, Instr.opcode, Instr.index?, occ_snd_settings]
  | dcfEdge e level => exact (edgeEffect_sameOutsideFrame _ e level s).2.1.writesListed _
  | countMilli | parked | preciseTick | setTime | readTime | readDiag | missingEntry | corrIdle
  | corrUnderflow | dcfOn | dcfOff | readDcf | readPe =>
    exact SamePet.writesListed rfl _

/-! ### What a step does to the position and the queues -/

/-- A step that is not the reset input takes the next event and advances, a fault included
(R20, R226). -/
theorem step_takes_nextEvent {s t : State} (hr : s.resetAsserted = false) (h : step s = .next t) :
    ∃ a w, s.nextEvent = some (a, w) ∧ t.pending = (s.takeEvent a).pending ∧ t.pc = s.pc + 1 := by
  obtain ⟨hreset, -⟩ | ⟨-, -, hs⟩ | ⟨a, w, -, hn, ⟨e, -, hs⟩ | ⟨i, -, hs⟩⟩ := oneStep_cases s
  · simp [hr] at hreset
  · cases h.symm.trans hs
  · cases h.symm.trans hs
    exact ⟨a, w, hn, rfl, rfl⟩
  · obtain ⟨_, ⟨-, hpc⟩, ⟨hpending, -⟩, -⟩ := exec_inContext (hs.symm.trans h)
    exact ⟨a, w, hn, hpending, hpc⟩

/-! ### The obligations -/

/-- Settles O9: arrival writes its own queue, and a step's state has the queues of `takeEvent`. -/
theorem eventsAreTakenOnceInIssueOrder : Obligations.EventsAreTakenOnceInIssueOrder := by
  refine ⟨fun s a w => ⟨queue_setQueue_self _ a _, fun b hb => queue_setQueue_ne _ _ hb⟩,
    fun s t hr h => ?_⟩
  obtain ⟨a, w, hn, hpending, -⟩ := step_takes_nextEvent hr h
  rw [hpending, takeEvent_pending]
  refine ⟨a, w, ?_, fun b hb => queue_setQueue_ne _ _ hb⟩
  rw [queue_setQueue_self]
  exact nextEvent_eq_some hn

/-- Settles O11: the position is part of the context, to which a command adds only the advance. -/
theorem everyStepAdvancesTheTracePosition : Obligations.EveryStepAdvancesTheTracePosition := by
  refine ⟨rfl, fun s t hr h => ?_, fun i s t k h => ?_⟩
  · obtain ⟨a, w, -, -, hpc⟩ := step_takes_nextEvent hr h
    exact hpc
  · obtain ⟨r, ⟨houts, -⟩, ⟨hpending, hreset⟩, hc⟩ := exec_inContext h
    simpa [State.inContext, emit?_eq, ← houts, ← hpending, ← hreset] using hc { s with pc := k }

/-- Settles O12: pending events and earlier records are part of the context. -/
theorem commandsDoNotSeePendingEvents : Obligations.CommandsDoNotSeePendingEvents := by
  intro i s t q log h
  obtain ⟨r, ⟨houts, hpc⟩, ⟨-, hreset⟩, hc⟩ := exec_inContext h
  refine ⟨r.toList, houts, ?_⟩
  simpa [State.inContext, emit?_eq, ← hpc, ← hreset] using
    hc { s with pending := q, outs := log }

/-- Settles O53: register by register from the command's effect; the inputs are context. -/
theorem onlyTheListedCommandsWriteEachRegister :
    Obligations.OnlyTheListedCommandsWriteEachRegister := by
  intro i s t h
  obtain ⟨_, -, hinputs, -⟩ := exec_inContext h
  obtain ⟨u, hu, rfl⟩ := effect_of_exec h
  obtain ⟨hmillis, hseconds, hsync1, hsync2, hdrift⟩ := hu.rtcWrites
  obtain ⟨henabled, hstreaming, hcursor, hbuf⟩ := hu.dcfWrites
  obtain ⟨hnPE, hentries⟩ := hu.entryWrites
  exact ⟨hmillis, hseconds, hsync1, hsync2, hdrift, henabled, hstreaming, hcursor, hbuf, hnPE,
    hentries, hinputs⟩

end Sys2Proof.Machine

/-!
PROOFS of 20_memory.md: every command completes in its step (R67), and what running a command a
second time does (R63).
-/

namespace Sys2Proof.Machine

/-! ### States with the same registers -/

/-- No register, entry or telegram bit differs (10_state.md section 1). -/
def SameRegisters (s t : State) : Prop := SameRtc s t ∧ SamePet s t ∧ SameDcf s t

theorem sameRegisters_emit_advance (s : State) (r : Record) :
    SameRegisters s (s.emit r).advance :=
  ⟨⟨rfl, rfl, rfl, rfl, rfl⟩, rfl, rfl, rfl, rfl, rfl⟩

/-! ### Writes done twice -/

theorem entry?_of_write {k : Byte} {s : State} {p : PeriodicEvent} (hp : s.entry? k = some p)
    (a : PeriodicEvent) (r : Record) :
    ((s.setEntry k a).emit r).advance.entry? k = some a :=
  entry?_setEntry_self a (entry?_eq_some_lt hp)

/-- Writing an entry's own value to it leaves the registers as they are. -/
theorem sameRegisters_write_same {k : Byte} {t : State} {a : PeriodicEvent}
    (ha : t.entry? k = some a) (r : Record) :
    SameRegisters t ((t.setEntry k a).emit r).advance := by
  rw [setEntry_same ha]
  exact sameRegisters_emit_advance t r

/-- A command that writes `f now pe[k]` to `pe[k]` writes the same value again, if `f now` does: it
keeps `now`.  On a missing entry it only reports the fault. -/
theorem entryWrite_twice {k : Byte} {c : Instr} {r : Record} {s t u : State}
    {f : Word64 → PeriodicEvent → PeriodicEvent} (hf : ∀ now p, f now (f now p) = f now p)
    (hst : withEntry k c s (fun p => ((s.setEntry k (f s.now p)).emit r).done) = .next t)
    (htu : withEntry k c t (fun p => ((t.setEntry k (f t.now p)).emit r).done) = .next u) :
    SameRegisters t u := by
  cases hs : s.entry? k with
  | none =>
    cases hst.symm.trans (withEntry_none _ hs)
    cases htu.symm.trans (withEntry_none _ hs)
    exact sameRegisters_emit_advance _ _
  | some p =>
    cases hst.symm.trans (withEntry_some _ hs)
    have ht := entry?_of_write hs (f s.now p) r
    cases htu.symm.trans (withEntry_some _ ht)
    exact sameRegisters_write_same (ht.trans (congrArg some (hf s.now p).symm)) r

/-- The writing commands of R63: the second run writes the values the first one wrote, since an
armed entry armed again at the same `now` is itself. -/
theorem write_twice {i : Instr} {s t u : State}
    (hi : i.opcode ∈ [.setTime, .peConfig, .peReset, .dcfOn, .dcfOff])
    (hst : exec i s = .next t) (htu : exec i t = .next u) : SameRegisters t u := by
  cases i with
  | setTime | dcfOn | dcfOff =>
    cases hst
    cases htu
    exact ⟨⟨rfl, rfl, rfl, rfl, rfl⟩, rfl, rfl, rfl, rfl, rfl⟩
  | peConfig k d m =>
    exact entryWrite_twice (f := fun now p => PeriodicEvent.arm now { p with delay := d, max := m })
      (fun _ _ => rfl) hst htu
  | peReset k => exact entryWrite_twice (f := PeriodicEvent.arm) (fun _ _ => rfl) hst htu
  | fastTick | preciseTick | readTime | readDiag | corrCheck | dcfEdge | readDcf | peOccurred
  | readPe => simp [Instr.opcode] at hi

/-! ### Reads done twice -/

/-- A read only emits its record, or the fault of a missing entry. -/
theorem read_eq_emit {i : Instr} {s t : State}
    (hi : i.opcode ∈ [.readTime, .readDiag, .readDcf, .readPe]) (h : exec i s = .next t) :
    ∃ r, t = (s.emit r).advance := by
  obtain ⟨x, hx, rfl⟩ := effect_of_exec h
  cases hx with
  | readTime | readDiag | readDcf | readPe | missingEntry => exact ⟨_, rfl⟩
  | countMilli | parked | preciseTick | setTime | corrIdle | corrUnderflow | corrFires | dcfEdge
  | dcfOn | dcfOff | peConfig | peOccurred | peReset => simp [Instr.opcode] at hi

/-- A command that only emitted a record emits that record again: what it added is context, which
it does not read. -/
theorem outs_of_emit_again {i : Instr} {s u : State} {r : Record}
    (hst : exec i s = .next (s.emit r).advance) (htu : exec i (s.emit r).advance = .next u) :
    u.outs = (s.emit r).advance.outs ++ [r] := by
  obtain ⟨r', ⟨houts, -⟩, -, hblind⟩ := exec_inContext hst
  have hr : r'.toList = [r] := (List.append_cancel_left houts).symm
  cases htu.symm.trans (hblind (s.emit r).advance)
  rw [← hr, emit?_eq]
  rfl

/-! ### Polls and corrections done twice -/

/-- An entry that fired does not fire again before its delay has passed (R140). -/
theorem occ_fire_of_early {p : PeriodicEvent} {now later : Word64}
    (h : later.toNat < now.toNat + p.delay.toNat) :
    occ (p.fire now) later = (false, p.fire now) := by
  obtain ⟨-, helapsed, -⟩ | ⟨-, ho⟩ := occ_cases (p.fire now) later
  · have hdue : now.toNat + p.delay.toNat ≤ later.toNat := (elapsed_iff _ _).1 helapsed
    omega
  · exact ho

/-- With a delay, the entry that one poll leaves does not fire in a second one at the same time. -/
theorem occ_occ_fst {p : PeriodicEvent} (now : Word64) (h : p.delay ≠ 0) :
    (occ (occ p now).2 now).1 = false := by
  obtain ⟨-, -, ho⟩ | ⟨-, ho⟩ := occ_cases p now
  · have hpos : 0 < p.delay.toNat := Nat.pos_of_ne_zero fun e => h (BitVec.eq_of_toNat_eq e)
    rw [ho, occ_fire_of_early (by omega)]
  · rw [ho, ho]

theorem exec_peOccurred {k : Byte} {s : State} {p : PeriodicEvent} (h : s.entry? k = some p) :
    exec (.peOccurred k) s =
      .next ((s.setEntry k (occ p s.now).2).emit (.fired (occ p s.now).1)).advance :=
  withEntry_some _ h

theorem exec_corrCheck_of_idle {k : Byte} {s : State} {p : PeriodicEvent}
    (h : s.entry? k = some p) (ho : occ p s.now = (false, p)) :
    exec (.corrCheck k) s = .next (s.emit (.corr false)).advance :=
  (withEntry_some _ h).trans (corrCheckEntry_of_idle ho)

/-- A second poll of an entry with a delay answers `FIRED(0)` (R63). -/
theorem peOccurred_twice {k : Byte} {s t u : State} {p : PeriodicEvent} (hp : s.entry? k = some p)
    (hd : p.delay ≠ 0) (hst : exec (.peOccurred k) s = .next t)
    (htu : exec (.peOccurred k) t = .next u) : u.outs = t.outs ++ [.fired false] := by
  cases hst.symm.trans (exec_peOccurred hp)
  cases htu.symm.trans (exec_peOccurred (entry?_of_write hp _ _))
  exact congrArg (fun b => _ ++ [Record.fired b]) (occ_occ_fst s.now hd)

/-- CORR_CHECK answered `CORR(1)`, so it fired the entry and took one second back (R105). -/
theorem corrCheck_fired {k : Byte} {s t : State} (h : exec (.corrCheck k) s = .next t)
    (hout : t.outs = s.outs ++ [.corr true]) :
    ∃ p, s.entry? k = some p ∧ s.seconds ≠ 0 ∧
      t = (((s.setEntry k (p.fire s.now)).setClock (s.seconds - 1)).emit (.corr true)).advance := by
  obtain ⟨x, hx, rfl⟩ := effect_of_exec h
  cases hx with
  | corrFires hp _ h0 => exact ⟨_, hp, h0, rfl⟩
  | missingEntry | corrIdle | corrUnderflow => simp at hout

/-- Under the clock relation, one second back is before the present (R106). -/
theorem anchorOf_pred_lt_millis {s : State} (hc : ClockInv s) (h0 : s.seconds ≠ 0) :
    (anchorOf (s.seconds - 1)).toNat < s.millis.toNat := by
  obtain ⟨-, hlow, -⟩ := hc
  have hpos : 0 < s.seconds.toNat := Nat.pos_of_ne_zero fun e => h0 (BitVec.eq_of_toNat_eq e)
  have hpred : (s.seconds - 1).toNat = s.seconds.toNat - 1 := by bv_omega
  rw [toNat_anchorOf, hpred]
  omega

/-- The second CORR_CHECK runs before the time at which the entry fired, so it answers `CORR(0)`
(R63). -/
theorem corrCheck_twice {k : Byte} {s t u : State} (hc : ClockInv s)
    (hst : exec (.corrCheck k) s = .next t) (hout : t.outs = s.outs ++ [.corr true])
    (htu : exec (.corrCheck k) t = .next u) : u.outs = t.outs ++ [.corr false] := by
  obtain ⟨p, hp, h0, rfl⟩ := corrCheck_fired hst hout
  have hback : (anchorOf (s.seconds - 1)).toNat < s.now.toNat + p.delay.toNat :=
    Nat.lt_add_right _ (anchorOf_pred_lt_millis hc h0)
  cases htu.symm.trans (exec_corrCheck_of_idle
    (entry?_setEntry_self _ (entry?_eq_some_lt hp)) (occ_fire_of_early hback))
  rfl

/-! ### The obligations -/

/-- Settles O56: one lemma for each of R63's groups of commands. -/
theorem repeatedCommands : Obligations.RepeatedCommands := by
  refine ⟨fun i s t u hi hst htu => write_twice hi hst htu, fun i s t u hi hst htu => ?reads,
    fun i s t u p hp hd hst htu => peOccurred_twice hp hd hst htu,
    fun i s t u p hc _ hst hout htu => corrCheck_twice hc hst hout htu⟩
  case reads =>
    obtain ⟨r, rfl⟩ := read_eq_emit hi hst
    obtain ⟨hrtc, hpet, hdcf⟩ := sameRegisters_emit_advance s r
    exact ⟨hrtc, hpet, hdcf, r, rfl, outs_of_emit_again hst htu⟩

/-- Settles O13: every command ends in `done`, and the position it advances is context. -/
theorem everyCommandCompletesInItsStep : Obligations.EveryCommandCompletesInItsStep := by
  intro i s
  obtain ⟨u, hu⟩ := exec_eq_done i s
  obtain ⟨_, ⟨-, hpc⟩, -⟩ := exec_inContext hu
  exact ⟨u.advance, hu, hpc⟩

end Sys2Proof.Machine

/-!
PROOFS of 30_encoding.md: the decoder and the encoder (R80 to R84), the assembler (R86), the records
of each command (R85) and DCF_APPLY (R87).

Decoding and encoding are inverse to each other on the well-formed commands (`decode_eq_ok_iff`); a
word with an assigned OP value is illegal exactly by its reserved bits or its index
(`exists_decode_error_iff_of_op`).
-/

namespace Sys2Proof.Machine

/-! ### Decoding and encoding -/

/-- A word is legal when none of the three conditions of R84 rejects it. -/
theorem decode_of_fields {nPE : Nat} {w : Word64} {o : Opcode} (ho : opcodeOf (opField w) = some o)
    (hz : reservedZero o.format w = true) (hw : (assembleOperands o w).wellFormed nPE = true) :
    decode nPE w = .ok (assembleOperands o w) := by
  simp [decode, ho, hz, hw]

/-- Every command's word has its OP value, and zeros where its format has them (R81, R83). -/
theorem encodeFields (i : Instr) : Laws.EncodeFields.Statement i := by
  cases i with
  | fastTick => exact Laws.EncodeFields.fastTick
  | preciseTick => exact Laws.EncodeFields.preciseTick
  | setTime v => exact Laws.EncodeFields.setTime v
  | readTime => exact Laws.EncodeFields.readTime
  | readDiag => exact Laws.EncodeFields.readDiag
  | corrCheck k => exact Laws.EncodeFields.corrCheck k
  | dcfEdge e level => exact Laws.EncodeFields.dcfEdge e level
  | dcfOn => exact Laws.EncodeFields.dcfOn
  | dcfOff => exact Laws.EncodeFields.dcfOff
  | readDcf => exact Laws.EncodeFields.readDcf
  | peConfig k d m => exact Laws.EncodeFields.peConfig k d m
  | peOccurred k => exact Laws.EncodeFields.peOccurred k
  | peReset k => exact Laws.EncodeFields.peReset k
  | readPe k => exact Laws.EncodeFields.readPe k

/-- Every operand is read back from the field it was written to (R82, R86). -/
theorem assembleOperands_encode (i : Instr) : assembleOperands i.opcode (encode i) = i := by
  cases i with
  | fastTick | preciseTick | readTime | readDiag | dcfOn | dcfOff | readDcf => rfl
  | setTime | corrCheck | peConfig | peOccurred | peReset | readPe =>
    simp [assembleOperands, encode, Instr.opcode]
  | dcfEdge e level =>
    simp only [assembleOperands, encode, Instr.opcode, levelBit, dataField_packWord,
      auxField_packWord, (auxLevel level).1]

theorem decode_encode {nPE : Nat} {i : Instr} (hw : i.wellFormed nPE = true) :
    decode nPE (encode i) = .ok i := by
  obtain ⟨hop, hz⟩ := encodeFields i
  have ho : opcodeOf (opField (encode i)) = some i.opcode := by rw [hop, opcodeOf_code]
  have hi := assembleOperands_encode i
  have h := decode_of_fields ho hz (by rwa [hi])
  rwa [hi] at h

/-- A word with the OP value of `o`, and zeros where the format of `o` has them, is the word of the
command its fields assemble to (R81, R82). -/
theorem encode_assembleOperands {o : Opcode} {w : Word64} (hop : o.code = opField w)
    (hz : reservedZero o.format w = true) : encode (assembleOperands o w) = w := by
  refine Eq.trans ?_ (packWord_fields w)
  rw [← hop]
  cases o with
  | dcfEdge =>
    simp only [Opcode.format, reservedZero, Bool.and_eq_true, beq_iff_eq] at hz
    obtain ⟨⟨hidx, haux⟩, hres⟩ := hz
    simp only [assembleOperands, encode, Opcode.code, levelBit, aux_eq_level haux, hidx, hres]
    rfl
  | fastTick | preciseTick | readTime | readDiag | dcfOn | dcfOff | readDcf | setTime | corrCheck
  | peOccurred | peReset | readPe | peConfig =>
    simp only [Opcode.format, reservedZero, Bool.and_eq_true, beq_iff_eq] at hz
    simp [assembleOperands, encode, Opcode.code, hz]

/-- Decoding and encoding are inverse to each other on the well-formed commands. -/
theorem decode_eq_ok_iff {nPE : Nat} {w : Word64} {i : Instr} :
    decode nPE w = .ok i ↔ encode i = w ∧ i.wellFormed nPE = true := by
  constructor
  · intro h
    obtain ⟨o, ho, hz, rfl, hw⟩ := decode_ok h
    exact ⟨encode_assembleOperands (code_of_opcodeOf ho) hz, hw⟩
  · rintro ⟨rfl, hw⟩
    exact decode_encode hw

theorem wellFormed_iff {nPE : Nat} {i : Instr} : i.wellFormed nPE = true ↔
    ∀ k, i.index? = some k → k.toNat < nPE := by
  unfold Instr.wellFormed
  cases i.index? with
  | none => simp
  | some k => simp

/-- On the largest block every command is well-formed, so every word can be read back: no two
commands share a word. -/
theorem encode_injective : Function.Injective encode := by
  intro i j h
  have hw (c : Instr) : c.wellFormed 256 = true := wellFormed_iff.2 fun k _ => k.isLt
  have hij : Except.ok i = Except.ok j :=
    calc Except.ok i = decode 256 (encode i) := (decode_encode (hw i)).symm
      _ = decode 256 (encode j) := by rw [h]
      _ = Except.ok j := decode_encode (hw j)
  exact Except.ok.inj hij

/-! ### The bits a format fixes (R81) -/

/-- The format has an IDX operand: I and C (R81). -/
def hasIndex (f : Format) : Bool := f == .I || f == .C

/-- The fields that the format fixes, with the mask `op` for the OP field (R81). -/
def fixedMask (op : Byte) (f : Format) : Word64 :=
  match f with
  | .Z => packWord op 0xFF#8 0xFF#8 0xFF#8 0xFFFFFFFF#32
  | .D => packWord op 0xFF#8 0xFF#8 0xFF#8 0#32
  | .I => packWord op 0#8 0xFF#8 0xFF#8 0xFFFFFFFF#32
  | .E => packWord op 0xFF#8 0xFE#8 0xFF#8 0#32
  | .C => packWord op 0#8 0#8 0xFF#8 0#32

theorem aux_and_eq_zero_iff (a : Byte) : a &&& 0xFE#8 = 0#8 ↔ a.extractLsb' 1 7 = 0#7 := by
  revert a; decide

/-- Under the mask a word is just the OP value `c` exactly when its OP is `c` under `op` and every
field its format marks 0 is zero. -/
theorem and_fixedMask_eq_iff (op c : Byte) (f : Format) (w : Word64) :
    w &&& fixedMask op f = packWord c 0#8 0#8 0#8 0#32 ↔
      opField w &&& op = c ∧ reservedZero f w = true := by
  have hbyte (b : Byte) : b &&& 0xFF#8 = b := BitVec.and_allOnes
  have hdata (d : Word32) : d &&& 0xFFFFFFFF#32 = d := BitVec.and_allOnes
  conv_lhs => rw [← packWord_fields w]
  cases f <;> simp [fixedMask, packWord_and, packWord_inj, reservedZero, hbyte, hdata,
    aux_and_eq_zero_iff, and_assoc]

theorem reservedZero_iff (f : Format) (w : Word64) :
    reservedZero f w = true ↔ w &&& fixedMask 0#8 f = 0#64 := by
  have h := and_fixedMask_eq_iff 0#8 0#8 f w
  rw [BitVec.and_zero] at h
  exact ⟨fun hz => h.2 ⟨rfl, hz⟩, fun hw => (h.1 hw).2⟩

theorem wellFormed_assembleOperands {nPE : Nat} {o : Opcode} {w : Word64} :
    (assembleOperands o w).wellFormed nPE = true ↔
      (hasIndex o.format = true → (idxField w).toNat < nPE) := by
  cases o <;> simp [assembleOperands, Instr.wellFormed, Instr.index?, hasIndex, Opcode.format]

/-! ### The opcode table -/

/-- The row of the opcode table that an opcode has by R81 and R83. -/
def rowOf (o : Opcode) : TableRow :=
  { mnemonic := String.ofList (mnemonicLetters o)
    pattern := packWord o.code 0#8 0#8 0#8 0#32
    mask := fixedMask 0xFF#8 o.format
    indexed := hasIndex o.format }

theorem opcodeTable_eq_map : opcodeTable = Opcode.all.map rowOf := rfl

/-! ### Legal and illegal words (R84) -/

theorem mem_opcodeAll (o : Opcode) : o ∈ Opcode.all := by
  cases o <;> decide

/-- A word with the OP value of `o` is legal exactly when neither of the other two conditions of R84
makes it illegal. -/
theorem exists_decode_ok_iff_of_op {nPE : Nat} {w : Word64} {o : Opcode} (h : opField w = o.code) :
    (∃ i, decode nPE w = .ok i) ↔
      reservedZero o.format w = true ∧ (hasIndex o.format = true → (idxField w).toNat < nPE) := by
  have ho : opcodeOf (opField w) = some o := by rw [h, opcodeOf_code]
  constructor
  · rintro ⟨i, hi⟩
    obtain ⟨o', ho', hz, rfl, hw⟩ := decode_ok hi
    cases ho.symm.trans ho'
    exact ⟨hz, wellFormed_assembleOperands.1 hw⟩
  · rintro ⟨hz, hw⟩
    exact ⟨_, decode_of_fields ho hz (wellFormed_assembleOperands.2 hw)⟩

theorem code_injective : Function.Injective Opcode.code := by
  intro o o' h
  simpa using congrArg opcodeOf h

theorem opField_of_decode_ok {nPE : Nat} {w : Word64} {i : Instr} (h : decode nPE w = .ok i) :
    opField w = i.opcode.code := by
  rw [← (decode_eq_ok_iff.1 h).1, opField_encode]

theorem exists_decode_error_iff {nPE : Nat} {w : Word64} :
    (∃ e, decode nPE w = .error e) ↔ ¬ ∃ i, decode nPE w = .ok i := by
  cases decode nPE w <;> simp

/-- A word matches the row of `o` exactly when its OP is that of `o` and its reserved fields are
zero. -/
theorem matches_rowOf_iff (o : Opcode) (w : Word64) :
    w &&& (rowOf o).mask = (rowOf o).pattern ↔
      opField w = o.code ∧ reservedZero o.format w = true := by
  have h := and_fixedMask_eq_iff (.allOnes 8) o.code o.format w
  rwa [BitVec.and_allOnes] at h

/-- With an assigned OP value, a word is illegal exactly when it has a reserved bit or its index
names no entry (R84). -/
theorem exists_decode_error_iff_of_op {nPE : Nat} {w : Word64} {o : Opcode}
    (h : opField w = o.code) : (∃ e, decode nPE w = .error e) ↔
      w &&& fixedMask 0#8 o.format ≠ 0#64 ∨
        hasIndex o.format = true ∧ nPE ≤ (idxField w).toNat := by
  rw [exists_decode_error_iff, exists_decode_ok_iff_of_op h, reservedZero_iff, not_and_or,
    Classical.not_imp, Nat.not_lt]

theorem exists_decode_error_of_unassigned {nPE : Nat} {w : Word64}
    (h : ∀ o : Opcode, opField w ≠ o.code) : ∃ e, decode nPE w = .error e :=
  exists_decode_error_iff.2 fun ⟨i, hi⟩ => h i.opcode (opField_of_decode_ok hi)

theorem runEvent_of_decode_error {s : State} {w : Word64} {e : DecodeError} (a : Agent)
    (hd : decode s.nPE w = .error e) : runEvent a w s = (s.takeEvent a).raise (.illegal w) := by
  simp [runEvent, hd]

/-! ### The assembler (R86) -/

/-- A number is accepted exactly when it is the value of the field (R86). -/
theorem fitField_eq_ok_iff {width n : Nat} {v : BitVec width} :
    fitField width n = .ok v ↔ v.toNat = n := by
  by_cases h : n < 2 ^ width
  · rw [fitField, if_pos h, Except.ok.injEq, ← BitVec.toNat_inj, BitVec.toNat_ofNat,
      Nat.mod_eq_of_lt h, eq_comm]
  · have hv : v.toNat ≠ n := fun e => h (e ▸ v.isLt)
    simp [fitField, h, hv]

theorem fitIndex_eq_ok_iff {nPE n : Nat} {k : Byte} :
    fitIndex nPE n = .ok k ↔ k.toNat = n ∧ n < nPE := by
  rw [← fitField_eq_ok_iff, fitIndex]
  cases fitField 8 n with
  | error e => simp
  | ok i =>
    by_cases h : n < nPE
    · simp [h]
    · simp [h]

theorem fitLevel_eq_ok_iff {n : Nat} {b : Bool} : fitLevel n = .ok b ↔ b.toNat = n := by
  match n with
  | 0 => cases b <;> simp [fitLevel]
  | 1 => cases b <;> simp [fitLevel]
  | n + 2 => cases b <;> simp [fitLevel]

theorem except_map_eq_ok_iff {ε α β : Type} {f : α → β} {x : Except ε α} {b : β} :
    x.map f = .ok b ↔ ∃ a, x = .ok a ∧ f a = b := by
  cases x <;> simp [Except.map]

theorem except_bind_eq_ok_iff {ε α β : Type} {f : α → Except ε β} {x : Except ε α} {b : β} :
    x.bind f = .ok b ↔ ∃ a, x = .ok a ∧ f a = .ok b := by
  cases x <;> simp [Except.bind]

/-- A well-formed command's own operands assemble to it. -/
theorem assembleCommand_operandsOf {nPE : Nat} {i : Instr} (hw : i.wellFormed nPE = true) :
    assembleCommand nPE i.opcode (operandsOf i) = .ok i := by
  have hidx := wellFormed_iff.1 hw
  cases i with
  | fastTick | preciseTick | readTime | readDiag | dcfOn | dcfOff | readDcf => rfl
  | setTime v => exact except_map_eq_ok_iff.2 ⟨v, fitField_eq_ok_iff.2 rfl, rfl⟩
  | corrCheck k | peOccurred k | peReset k | readPe k =>
    exact except_map_eq_ok_iff.2 ⟨k, fitIndex_eq_ok_iff.2 ⟨rfl, hidx k rfl⟩, rfl⟩
  | dcfEdge e level =>
    exact except_bind_eq_ok_iff.2 ⟨e, fitField_eq_ok_iff.2 rfl,
      except_map_eq_ok_iff.2 ⟨level, fitLevel_eq_ok_iff.2 rfl, rfl⟩⟩
  | peConfig k d m =>
    exact except_bind_eq_ok_iff.2 ⟨k, fitIndex_eq_ok_iff.2 ⟨rfl, hidx k rfl⟩,
      except_bind_eq_ok_iff.2 ⟨d, fitField_eq_ok_iff.2 rfl,
        except_map_eq_ok_iff.2 ⟨m, fitField_eq_ok_iff.2 rfl, rfl⟩⟩⟩

/-- A list that assembles has the operands of its command: as many as its opcode takes, each in its
field. -/
theorem operandsOf_of_assembleCommand {nPE : Nat} {o : Opcode} {ns : List Nat} {i : Instr}
    (h : assembleCommand nPE o ns = .ok i) :
    i.opcode = o ∧ operandsOf i = ns ∧ i.wellFormed nPE = true := by
  cases o with
  | fastTick | preciseTick | readTime | readDiag | dcfOn | dcfOff | readDcf =>
    match ns, h with
    | [], rfl => exact ⟨rfl, rfl, rfl⟩
  | setTime =>
    match ns, h with
    | [n], h =>
      obtain ⟨v, hv, rfl⟩ := except_map_eq_ok_iff.1 h
      obtain rfl := fitField_eq_ok_iff.1 hv
      exact ⟨rfl, rfl, rfl⟩
  | corrCheck | peOccurred | peReset | readPe =>
    match ns, h with
    | [n], h =>
      obtain ⟨k, hk, rfl⟩ := except_map_eq_ok_iff.1 h
      obtain ⟨rfl, hlt⟩ := fitIndex_eq_ok_iff.1 hk
      exact ⟨rfl, rfl, decide_eq_true hlt⟩
  | dcfEdge =>
    match ns, h with
    | [n, l], h =>
      obtain ⟨e, he, h⟩ := except_bind_eq_ok_iff.1 h
      obtain ⟨level, hl, rfl⟩ := except_map_eq_ok_iff.1 h
      obtain rfl := fitField_eq_ok_iff.1 he
      obtain rfl := fitLevel_eq_ok_iff.1 hl
      exact ⟨rfl, rfl, rfl⟩
  | peConfig =>
    match ns, h with
    | [n, nd, nm], h =>
      obtain ⟨k, hk, h⟩ := except_bind_eq_ok_iff.1 h
      obtain ⟨d, hd, h⟩ := except_bind_eq_ok_iff.1 h
      obtain ⟨m, hm, rfl⟩ := except_map_eq_ok_iff.1 h
      obtain ⟨rfl, hlt⟩ := fitIndex_eq_ok_iff.1 hk
      obtain rfl := fitField_eq_ok_iff.1 hd
      obtain rfl := fitField_eq_ok_iff.1 hm
      exact ⟨rfl, rfl, decide_eq_true hlt⟩

/-! ### A command on a missing entry (R84) -/

theorem exec_of_missing_entry {c : Instr} {k : Byte} {s : State} (hk : c.index? = some k)
    (h : s.entry? k = none) : exec c s = s.raise (.illegal (encode c)) := by
  cases c with
  | corrCheck | peConfig | peOccurred | peReset | readPe =>
    cases hk
    exact withEntry_none _ h
  | fastTick | preciseTick | setTime | readTime | readDiag | dcfEdge | dcfOn | dcfOff | readDcf =>
    cases hk

theorem decode_encode_of_missing_entry {nPE : Nat} {c : Instr} {k : Byte} (hk : c.index? = some k)
    (h : nPE ≤ k.toNat) : ∃ e, decode nPE (encode c) = .error e := by
  refine exists_decode_error_iff.2 fun ⟨i, hi⟩ => ?_
  obtain ⟨hic, hw⟩ := decode_eq_ok_iff.1 hi
  cases encode_injective hic
  exact Nat.not_lt.2 h (wellFormed_iff.1 hw k hk)

/-! ### Records (R85) -/

/-- What R85 says of a record of the command `i` in the state `s`. -/
def RecordListed (i : Instr) (s : State) (r : Record) : Prop :=
  match r with
  | .ack => i.opcode ∈ [.setTime, .dcfOn, .dcfOff, .peConfig, .peReset]
  | .time _ _ => i.opcode = .readTime
  | .diag _ _ _ => i.opcode = .readDiag
  | .dcfstat _ _ _ _ => i.opcode = .readDcf
  | .pestat _ _ _ _ => i.opcode = .readPe
  | .fired _ => i.opcode = .peOccurred
  | .corr _ => i.opcode = .corrCheck
  | .bitOk _ => i.opcode = .dcfEdge
  | .bitFail => i.opcode = .dcfEdge
  | .frameOk _ _ _ _ _ => i.opcode = .dcfEdge
  | .frameParityErr _ _ _ => i.opcode = .dcfEdge
  | .frameCountErr _ => i.opcode = .dcfEdge
  | .fault (.illegal w) => w = encode i ∧ ∃ k, i.index? = some k ∧ s.nPE ≤ k.toNat
  | .fault .corrUnderflow => i.opcode = .corrCheck ∧ s.seconds = 0

/-- `t` has the records of `s` and after them `rs`, as many and of the kinds R85 lists for `i`. -/
def RecordsListed (i : Instr) (s t : State) : Prop :=
  ∃ rs, t.outs = s.outs ++ rs ∧ (i.agent = .host → rs.length = 1) ∧
    (i = .fastTick ∨ i = .preciseTick → rs = []) ∧ (i.opcode = .dcfEdge → rs.length ≤ 1) ∧
    ∀ r ∈ rs, RecordListed i s r

theorem recordsListed_of_none {i : Instr} {s t : State} (ht : t.outs = s.outs)
    (hi : i.agent ≠ .host) : RecordsListed i s t :=
  ⟨[], by simpa using ht, fun h => absurd h hi, fun _ => rfl, fun _ => Nat.zero_le 1, by simp⟩

theorem recordsListed_of_one {i : Instr} {s t : State} {r : Record} (ht : t.outs = s.outs ++ [r])
    (hi : i.agent = .host ∨ i.agent = .comparator) (hr : RecordListed i s r) :
    RecordsListed i s t := by
  refine ⟨[r], ht, fun _ => rfl, ?_, fun _ => le_rfl, by simpa using hr⟩
  rintro (rfl | rfl) <;> simp [Instr.agent, Instr.opcode, Opcode.agent] at hi

theorem agent_of_index {i : Instr} {k : Byte} (hk : i.index? = some k) : i.agent = .host := by
  cases i with
  | setTime | readTime | readDiag | corrCheck | dcfOn | dcfOff | readDcf | peConfig | peOccurred
  | peReset | readPe => rfl
  | fastTick | preciseTick | dcfEdge => cases hk

/-- An edge emits one notification or nothing (R222). -/
def Notifies (s t : State) : Prop :=
  t.outs = s.outs ∨ ∃ r : Record, t.outs = s.outs ++ [r] ∧ r.kind = .notification

theorem decodeRecord_kind (b : Telegram) : (decodeRecord b).kind = .notification := by
  unfold decodeRecord
  split <;> rfl

theorem frameRecord_kind (s : State) : (frameRecord s).kind = .notification := by
  unfold frameRecord
  split
  · exact decodeRecord_kind s.buf
  · rfl

theorem pulse_notifies (draw level v : Bool) (s : State) : Notifies s (pulse draw level v s) := by
  unfold pulse pulseStreaming pulseIdle
  split
  · split <;> exact .inr ⟨_, rfl, rfl⟩
  · split
    · exact .inr ⟨_, rfl, rfl⟩
    · exact .inl rfl

theorem noiseEdge_notifies (s : State) : Notifies s (noiseEdge s) := by
  unfold noiseEdge
  split
  · exact .inr ⟨_, rfl, rfl⟩
  · exact .inl rfl

theorem gapEdge_notifies (s : State) :
    Notifies s (if s.streaming then endFrame s else startFrame s) := by
  split
  · exact .inr ⟨_, rfl, frameRecord_kind s⟩
  · exact .inl rfl

theorem edgeEffect_notifies (draw : Bool) (e : Word32) (level : Bool) (s : State) :
    Notifies s (edgeEffect draw e level s) := by
  unfold edgeEffect
  split
  · cases band e with
    | ignored => exact .inl rfl
    | zero => exact pulse_notifies draw level false s
    | one => exact pulse_notifies draw level true s
    | gap => exact gapEdge_notifies s
    | noise => exact noiseEdge_notifies s
  · exact .inl rfl

/-- Every notification is a record of DCF_EDGE (R85, R222). -/
theorem recordListed_of_notification {i : Instr} {r : Record} (s : State)
    (hr : r.kind = .notification) (hi : i.opcode = .dcfEdge) : RecordListed i s r := by
  cases r with
  | bitOk | bitFail | frameOk | frameParityErr | frameCountErr => exact hi
  | ack | time | diag | dcfstat | pestat | fired | corr | fault => cases hr

theorem nPE_le_of_entry?_eq_none {k : Byte} {s : State} (h : s.entry? k = none) :
    s.nPE ≤ k.toNat :=
  List.getElem?_eq_none_iff.1 h

theorem CommandEffect.recordsListed {i : Instr} {s u : State} (h : CommandEffect s i u) :
    RecordsListed i s u := by
  cases h with
  | countMilli | parked | preciseTick => exact recordsListed_of_none rfl (by decide)
  | dcfEdge e level =>
    obtain hnone | ⟨r, hone, hr⟩ := edgeEffect_notifies (Config.freeDraw s.freeIndex) e level s
    · exact recordsListed_of_none hnone (by simp [Instr.agent, Instr.opcode, Opcode.agent])
    · exact recordsListed_of_one hone (.inr rfl) (recordListed_of_notification s hr rfl)
  | missingEntry hk h =>
    exact recordsListed_of_one rfl (.inl (agent_of_index hk))
      ⟨rfl, _, hk, nPE_le_of_entry?_eq_none h⟩
  | corrUnderflow _ _ h0 => exact recordsListed_of_one rfl (.inl rfl) ⟨rfl, h0⟩
  | setTime | dcfOn | dcfOff | peConfig | peReset =>
    exact recordsListed_of_one rfl (.inl rfl) (by simp [RecordListed, Instr.opcode])
  | readTime | readDiag | readDcf | readPe | peOccurred | corrIdle | corrFires =>
    exact recordsListed_of_one rfl (.inl rfl) rfl

/-! ### DCF_APPLY (R87) -/

/-- The entries of the indices `ks` are armed from the time of `s`, and nothing else of the registers
differs. -/
def ArmsEntries (ks : List Byte) (s t : State) : Prop :=
  SameRtc s t ∧ SameDcf s t ∧ t.nPE = s.nPE ∧
    ∀ (k : Byte) (p : PeriodicEvent), s.entry? k = some p →
      t.entry? k = some (if k ∈ ks then p.arm s.now else p)

/-- PE_RESET arms its entry; on a missing entry its fault writes no register (R143, R223). -/
theorem exec_peReset_armsEntries (k : Byte) (s : State) :
    ∃ t, exec (.peReset k) s = .next t ∧ ArmsEntries [k] s t := by
  cases hk : s.entry? k with
  | none =>
    refine ⟨_, withEntry_none _ hk, ⟨rfl, rfl, rfl, rfl, rfl⟩, ⟨rfl, rfl, rfl, rfl⟩, rfl,
      fun j p hj => ?_⟩
    have hjk : j ≠ k := by rintro rfl; simp [hk] at hj
    simpa [hjk] using hj
  | some q =>
    refine ⟨_, withEntry_some _ hk, ⟨rfl, rfl, rfl, rfl, rfl⟩, ⟨rfl, rfl, rfl, rfl⟩,
      nPE_setEntry s k _, fun j p hj => ?_⟩
    simp only [entry?_advance, entry?_emit]
    by_cases hjk : j = k
    · subst hjk
      cases hk.symm.trans hj
      simpa using entry?_setEntry_self _ (entry?_eq_some_lt hk)
    · rw [entry?_setEntry_ne s _ hjk, hj]
      simp [hjk]

theorem SameRtc.trans {s t u : State} (hst : SameRtc s t) (htu : SameRtc t u) : SameRtc s u := by
  obtain ⟨hmillis, hseconds, hsync1, hsync2, hdrift⟩ := hst
  simpa only [SameRtc, hmillis, hseconds, hsync1, hsync2, hdrift] using htu

theorem SameDcf.trans {s t u : State} (hst : SameDcf s t) (htu : SameDcf t u) : SameDcf s u := by
  obtain ⟨henabled, hstreaming, hcursor, hbuf⟩ := hst
  simpa only [SameDcf, henabled, hstreaming, hcursor, hbuf] using htu

@[simp] theorem arm_arm (p : PeriodicEvent) (now : Word64) : (p.arm now).arm now = p.arm now := rfl

/-- Arming does not move the clock, so both runs arm at the same time. -/
theorem ArmsEntries.trans {ks ls : List Byte} {s t u : State} (hst : ArmsEntries ks s t)
    (htu : ArmsEntries ls t u) : ArmsEntries (ks ++ ls) s u := by
  obtain ⟨hrtc, hdcf, hnPE, hentry⟩ := hst
  obtain ⟨hrtc', hdcf', hnPE', hentry'⟩ := htu
  have hnow : t.now = s.now := hrtc.1
  refine ⟨hrtc.trans hrtc', hdcf.trans hdcf', hnPE'.trans hnPE, fun k p hp => ?_⟩
  rw [hentry' k _ (hentry k p hp), hnow]
  by_cases hk : k ∈ ks
  · simp [hk]
  · simp [hk]

theorem runAll_peReset_armsEntries (ks : List Byte) (s : State) :
    ∃ t, runAll (ks.map .peReset) s = .next t ∧ ArmsEntries ks s t := by
  induction ks generalizing s with
  | nil =>
    exact ⟨s, rfl, ⟨rfl, rfl, rfl, rfl, rfl⟩, ⟨rfl, rfl, rfl, rfl⟩, rfl, fun _ _ hp => by simp [hp]⟩
  | cons k ks ih =>
    obtain ⟨t, ht, hst⟩ := exec_peReset_armsEntries k s
    obtain ⟨u, hu, htu⟩ := ih t
    exact ⟨u, (runAll_cons_of_next _ ht).trans hu, hst.trans htu⟩

/-- The indices of PE_RESET_ALL, in its order (R87). -/
def allIndices (nPE : Nat) : List Byte := (List.range nPE).map (BitVec.ofNat 8)

theorem resetAll_eq (nPE : Nat) : resetAll nPE = (allIndices nPE).map .peReset := by
  simp [resetAll, allIndices]

theorem mem_allIndices {k : Byte} {nPE : Nat} (h : k.toNat < nPE) : k ∈ allIndices nPE :=
  List.mem_map.2 ⟨k.toNat, List.mem_range.2 h, by simp⟩

/-- PE_RESET_ALL arms every entry (R87). -/
theorem runAll_resetAll (s : State) :
    ∃ t, runAll (resetAll s.nPE) s = .next t ∧ SameRtc s t ∧ SameDcf s t ∧ t.nPE = s.nPE ∧
      ∀ (k : Byte) (p : PeriodicEvent), s.entry? k = some p → t.entry? k = some (p.arm s.now) := by
  obtain ⟨t, ht, hrtc, hdcf, hnPE, hentry⟩ := runAll_peReset_armsEntries (allIndices s.nPE) s
  refine ⟨t, resetAll_eq _ ▸ ht, hrtc, hdcf, hnPE, fun k p hp => ?_⟩
  rw [hentry k p hp, if_pos (mem_allIndices (entry?_eq_some_lt hp))]

/-- The block after `SET_TIME v` and DCF_OFF. -/
def setTimeThenOff (v : Word32) (s : State) : State :=
  (({ ((s.setClock v).emit .ack).advance.goIdle with enabled := false } : State).emit .ack).advance

theorem runAll_dcfApply (v : Word32) (s : State) :
    runAll ((Pseudo.dcfApply v).expand s.nPE) s = runAll (resetAll s.nPE) (setTimeThenOff v s) :=
  rfl

/-! ### The obligations -/

/-- Settles O2: every operand is read back from the field it was written to. -/
theorem decodeOfEncodeIsTheCommand : Obligations.DecodeOfEncodeIsTheCommand :=
  fun _ _ hw => decode_encode hw

/-- Settles O3: a legal word has no bit outside the fields its command keeps. -/
theorem encodeOfDecodeIsTheWord : Obligations.EncodeOfDecodeIsTheWord :=
  fun _ _ _ h => decode_eq_ok_iff.1 h

/-- Settles O4: by the format of the word's opcode, or OP is unassigned; the step is the fault. -/
theorem illegalWordsAreExactlyThose : Obligations.IllegalWordsAreExactlyThose := by
  refine fun nPE w => ⟨?bits, fun s a hn hr he hd => ?step⟩
  case bits =>
    dsimp only
    rw [← opField, ← idxField]
    by_cases h : ∃ o : Opcode, opField w = o.code
    · obtain ⟨o, ho⟩ := h
      rw [exists_decode_error_iff_of_op ho, ho]
      -- The OP value leaves one disjunct, with the mask of its format.
      cases o <;> simp [Opcode.code, Opcode.format, hasIndex, fixedMask, packWord]
    · push Not at h
      refine iff_of_true (exists_decode_error_of_unassigned h) (.inl fun hmem => ?_)
      obtain ⟨o, -, ho⟩ := List.mem_map.1 (show opField w ∈ Opcode.all.map Opcode.code from hmem)
      exact h o ho.symm
  case step =>
    subst hn
    obtain ⟨e, hd⟩ := hd
    calc step s = runEvent a w s := step_eq_runEvent hr he
      _ = (s.takeEvent a).raise (.illegal w) := runEvent_of_decode_error a hd

/-- Settles O5: the rows are those of the opcodes, and a row's match is a legal word's OP value and
reserved fields. -/
theorem legalWordsMatchTheOpcodeTable : Obligations.LegalWordsMatchTheOpcodeTable := by
  refine fun nPE w => ⟨⟨?matching, ?legal⟩, ?mnemonic⟩
  case matching =>
    rintro ⟨i, hi⟩
    have hop := opField_of_decode_ok hi
    obtain ⟨hz, hidx⟩ := (exists_decode_ok_iff_of_op hop).1 ⟨i, hi⟩
    exact ⟨rowOf i.opcode, List.mem_map_of_mem (mem_opcodeAll _),
      (matches_rowOf_iff _ _).2 ⟨hop, hz⟩, hidx⟩
  case legal =>
    rintro ⟨r, hr, hmatch, hidx⟩
    obtain ⟨o, -, rfl⟩ := List.mem_map.1 (opcodeTable_eq_map ▸ hr)
    obtain ⟨hop, hz⟩ := (matches_rowOf_iff o w).1 hmatch
    exact (exists_decode_ok_iff_of_op hop).2 ⟨hz, hidx⟩
  case mnemonic =>
    intro i r hi hr hmatch
    obtain ⟨o, -, rfl⟩ := List.mem_map.1 (opcodeTable_eq_map ▸ hr)
    obtain ⟨hop, -⟩ := (matches_rowOf_iff o w).1 hmatch
    have ho : o = i.opcode := code_injective (hop.symm.trans (opField_of_decode_ok hi))
    simp [rowOf, ho]

/-- Settles O6: each operand fits its field exactly when it is the field's own value. -/
theorem assemblerAcceptsExactlyFittingOperands :
    Obligations.AssemblerAcceptsExactlyFittingOperands := by
  intro nPE o ns i
  constructor
  · exact operandsOf_of_assembleCommand
  · rintro ⟨rfl, rfl, hw⟩
    exact assembleCommand_operandsOf hw

/-- Settles O33: the missing entry is the one reason left to reject the word, and the one case in
which the command itself raises the fault. -/
theorem missingEntryIsIllegal : Obligations.MissingEntryIsIllegal := by
  intro c k s hk h
  exact ⟨decode_encode_of_missing_entry hk h, exec_of_missing_entry hk (entry?_eq_none h)⟩

/-- Settles O54: one case of the command's effect at a time. -/
theorem recordsOfEachCommand : Obligations.RecordsOfEachCommand := by
  intro i s t h
  obtain ⟨u, hu, rfl⟩ := effect_of_exec h
  exact hu.recordsListed

/-- Settles O57: SET_TIME and DCF_OFF set what PE_RESET_ALL keeps, and it arms each entry from the
new time.  An index is a byte, so the bound on the number of entries is not needed. -/
theorem dcfApplySetsTheClockAndRearmsAll : Obligations.DcfApplySetsTheClockAndRearmsAll := by
  intro v s _
  obtain ⟨t, ht, ⟨hmillis, hseconds, -⟩, ⟨henabled, hstreaming, hcursor, -⟩, hnPE, hentry⟩ :=
    runAll_resetAll (setTimeThenOff v s)
  refine ⟨t, (runAll_dcfApply v s).trans ht, hseconds, ?_, henabled, hstreaming, hcursor, hnPE,
    fun k p hp => ⟨_, hentry k p hp, rfl, rfl, rfl, toNat_anchorOf v⟩⟩
  rw [hmillis]
  exact toNat_anchorOf v

/-- Settles O1: each word is the one of its command, whose index, if any, is below 8. -/
theorem wordsDecodeToTheirCommands : Obligations.WordsDecodeToTheirCommands := by
  simp only [Obligations.WordsDecodeToTheirCommands, decode_eq_ok_iff]
  decide

end Sys2Proof.Machine

/-!
PROOFS of 40_rtc.md: the clock (R100 to R110), and the invariant of the block.

Every command keeps each part of the invariant (`CommandEffect.inv`), so every step does and every
reached state has it; the rules on the clock read it off, or follow `sync1` and `sync2` along a run.
-/

namespace Sys2Proof.Machine

/-! ### The clock relation (R106) -/

/-- The largest time is `4294967295 * 1000 + 999`. -/
theorem ClockInv.millis_lt {s : State} (h : ClockInv s) : s.millis.toNat < 2 ^ 42 := by
  obtain ⟨hpark, -, hhigh⟩ := h
  have := s.seconds.isLt
  omega

theorem ClockInv.of_sameRtc {s t : State} (h : SameRtc s t) (hs : ClockInv s) : ClockInv t := by
  obtain ⟨hmillis, hseconds, hsync1, -, -⟩ := h
  simpa only [ClockInv, hmillis, hseconds, hsync1] using hs

/-- A clock at the start of a second has the relation, with `d = 0`. -/
theorem clockInv_of_anchored {t : State} (hmillis : t.millis = anchorOf t.seconds)
    (hsync1 : t.sync1.toNat ≤ 999) : ClockInv t := by
  have hanchor : t.millis.toNat = t.seconds.toNat * 1000 := by rw [hmillis, toNat_anchorOf]
  exact ⟨hsync1, hanchor.ge, by omega⟩

/-- Below the park neither counter of FAST_TICK overflows (R100). -/
theorem toNat_sync1_succ {s : State} (h : s.sync1.toNat < 999) :
    (s.sync1 + 1).toNat = s.sync1.toNat + 1 := by
  bv_omega

theorem ClockInv.toNat_millis_succ {s : State} (h : ClockInv s) :
    (s.millis + 1).toNat = s.millis.toNat + 1 := by
  have := h.millis_lt
  bv_omega

theorem CommandEffect.clockInv {i : Instr} {s u : State} (h : CommandEffect s i u)
    (hs : ClockInv s) : ClockInv u := by
  cases h with
  | countMilli hpark =>
    have ⟨_, hlow, hhigh⟩ := hs
    have hmillis := hs.toNat_millis_succ
    have hsync1 := toNat_sync1_succ hpark
    have hlt : s.sync1.toNat < 999 := hpark
    simp only [ClockInv, countTick_sync1, countTick_seconds, countTick_millis, hmillis, hsync1]
    omega
  | preciseTick => exact clockInv_of_anchored rfl (by simp)
  | setTime | corrFires => exact clockInv_of_anchored rfl hs.1
  | dcfEdge e level => exact hs.of_sameRtc (edgeEffect_sameOutsideFrame _ e level s).1
  | parked | readTime | readDiag | missingEntry | corrIdle | corrUnderflow | dcfOn | dcfOff
  | readDcf | peConfig | peOccurred | peReset | readPe => exact hs

/-! ### The entries (R28, R147) -/

theorem entryInv_zero : EntryInv PeriodicEvent.zero := ⟨fun _ => rfl, by decide, by decide⟩

theorem entryInv_arm (p : PeriodicEvent) {now : Word64} (h : now.toNat < 2 ^ 42) :
    EntryInv (p.arm now) := ⟨fun _ => rfl, fun _ => Nat.zero_le _, h⟩

/-- An entry that is not exhausted has room for one more firing. -/
theorem count_lt_max {p : PeriodicEvent} (h : p.exhausted = false) (hm : p.max ≠ 0) :
    p.count.toNat < p.max.toNat := by
  by_contra hc
  simp [(exhausted_iff p).2 ⟨hm, Nat.le_of_not_lt hc⟩] at h

theorem entryInv_fire {p : PeriodicEvent} {now : Word64} (hp : EntryInv p)
    (hx : p.exhausted = false) (hnow : now.toNat < 2 ^ 42) : EntryInv (p.fire now) := by
  obtain ⟨hzero, -, -⟩ := hp
  refine ⟨fun hm => ?unbounded, fun hm => ?bounded, hnow⟩
  case unbounded =>
    rw [fire_max] at hm
    simp [PeriodicEvent.fire, hm, hzero hm]
  case bounded =>
    rw [fire_max] at hm
    have := count_lt_max hx hm
    rw [toNat_fire_count now hx, if_neg hm, fire_max]
    omega

theorem entryInv_occ {p : PeriodicEvent} {now : Word64} (hp : EntryInv p)
    (hnow : now.toNat < 2 ^ 42) : EntryInv (occ p now).2 := by
  obtain ⟨hx, -, ho⟩ | ⟨-, ho⟩ := occ_cases p now
  · rw [ho]
    exact entryInv_fire hp hx hnow
  · rw [ho]
    exact hp

/-- Every entry of the block has the invariant of an entry. -/
def EntriesInv (s : State) : Prop := ∀ p ∈ s.pe, EntryInv p

theorem EntriesInv.entry {s : State} (h : EntriesInv s) {k : Byte} {p : PeriodicEvent}
    (hp : s.entry? k = some p) : EntryInv p :=
  h p (List.mem_of_getElem? hp)

theorem EntriesInv.setEntry {s : State} (h : EntriesInv s) (k : Byte) {q : PeriodicEvent}
    (hq : EntryInv q) : EntriesInv (s.setEntry k q) := by
  intro p hp
  rcases List.mem_or_eq_of_mem_set hp with hold | rfl
  · exact h p hold
  · exact hq

theorem EntriesInv.of_samePet {s t : State} (h : SamePet s t) (hs : EntriesInv s) :
    EntriesInv t := by
  rw [EntriesInv, h]
  exact hs

theorem CommandEffect.entriesInv {i : Instr} {s u : State} (h : CommandEffect s i u)
    (hs : EntriesInv s) (hnow : s.now.toNat < 2 ^ 42) : EntriesInv u := by
  cases h with
  | @corrFires k p hp ho =>
    have hfire : EntryInv (occ p s.now).2 := entryInv_occ (hs.entry hp) hnow
    rw [ho] at hfire
    exact hs.setEntry k hfire
  | @peConfig k p => exact hs.setEntry k (entryInv_arm _ hnow)
  | @peReset k p => exact hs.setEntry k (entryInv_arm p hnow)
  | @peOccurred k p hp => exact hs.setEntry k (entryInv_occ (hs.entry hp) hnow)
  | dcfEdge e level => exact hs.of_samePet (edgeEffect_sameOutsideFrame _ e level s).2.1
  | countMilli | parked | preciseTick | setTime | readTime | readDiag | missingEntry | corrIdle
  | corrUnderflow | dcfOn | dcfOff | readDcf | readPe => exact hs

/-! ### The decoder (R32, R174 to R180) -/

/-- An idle decoder at cursor 0 has the invariant, whatever the buffer holds. -/
theorem decoderInv_of_idle {s : State} (hstreaming : s.streaming = false) (hcursor : s.cursor = 0) :
    DecoderInv s :=
  ⟨fun _ => hstreaming, fun _ => hcursor, by simp [hstreaming]⟩

/-- A frame starts with an empty buffer (R174). -/
theorem decoderInv_startFrame {s : State} (he : s.enabled = true) : DecoderInv (startFrame s) := by
  refine ⟨?_, ?_, fun _ k _ => ?_⟩
  · simp [startFrame, he]
  · simp [startFrame]
  · exact BitVec.getLsbD_zero

/-- The bit taken is the one at the cursor, and the cursor moves past it (R176). -/
theorem getLsbD_takeBit {s : State} {v : Bool} {k : Nat}
    (hs : ∀ k, s.cursor.val ≤ k → s.buf.getLsbD k = false) (hk : (takeBit v s).cursor.val ≤ k) :
    (takeBit v s).buf.getLsbD k = false := by
  have hnext : min (s.cursor.val + 1) 61 ≤ k := hk
  show (if s.cursor.val < 60 then bufSet s.buf s.cursor.val v else s.buf).getLsbD k = false
  split
  · rw [getLsbD_bufSet, if_neg (by omega)]
    exact hs k (by omega)
  · exact BitVec.getLsbD_of_ge _ _ (by omega)

theorem decoderInv_takeBit (v : Bool) {s : State} (hstreaming : s.streaming = true)
    (hs : DecoderInv s) : DecoderInv (takeBit v s) := by
  obtain ⟨hoff, -, hbuf⟩ := hs
  refine ⟨hoff, fun hidle => ?_, fun _ k hk => getLsbD_takeBit (hbuf hstreaming) hk⟩
  cases hstreaming.symm.trans hidle

theorem decoderInv_pulse (draw level v : Bool) {s : State} (hs : DecoderInv s) :
    DecoderInv (pulse draw level v s) := by
  unfold pulse pulseStreaming pulseIdle
  split
  · next hstreaming =>
    split
    · exact decoderInv_takeBit v hstreaming hs
    · exact hs
  · split <;> exact hs

theorem decoderInv_noiseEdge {s : State} (hs : DecoderInv s) : DecoderInv (noiseEdge s) := by
  unfold noiseEdge
  split
  · exact decoderInv_of_idle rfl rfl
  · exact hs

theorem decoderInv_edgeEffect (draw : Bool) (e : Word32) (level : Bool) {s : State}
    (hs : DecoderInv s) : DecoderInv (edgeEffect draw e level s) := by
  unfold edgeEffect
  split
  · next he =>
    cases band e with
    | ignored => exact hs
    | zero => exact decoderInv_pulse draw level false hs
    | one => exact decoderInv_pulse draw level true hs
    | gap =>
      dsimp only
      split
      · exact decoderInv_of_idle rfl rfl
      · exact decoderInv_startFrame he
    | noise => exact decoderInv_noiseEdge hs
  · exact hs

theorem CommandEffect.decoderInv {i : Instr} {s u : State} (h : CommandEffect s i u)
    (hs : DecoderInv s) : DecoderInv u := by
  cases h with
  | dcfOn | dcfOff => exact decoderInv_of_idle rfl rfl
  | dcfEdge e level => exact decoderInv_edgeEffect _ e level hs
  | countMilli | parked | preciseTick | setTime | readTime | readDiag | missingEntry | corrIdle
  | corrUnderflow | corrFires | readDcf | peConfig | peOccurred | peReset | readPe => exact hs

/-! ### The invariant of the block -/

theorem inv_resetWith {n : Nat} (low : 1 ≤ n) (high : n ≤ Config.nPEMax) :
    Inv (State.resetWith n) := by
  refine ⟨clockInv_of_anchored ?clock (Nat.zero_le _), fun p hp => ?entries, ?size,
    decoderInv_of_idle rfl rfl⟩
  case clock => simp [State.resetWith, anchorOf]
  case entries =>
    rw [List.eq_of_mem_replicate hp]
    exact entryInv_zero
  case size =>
    rw [State.nPE, State.resetWith, List.length_replicate]
    exact ⟨low, high⟩

/-! The invariant speaks of registers only; these operations write none. -/

@[simp] theorem inv_advance (s : State) : Inv s.advance ↔ Inv s := Iff.rfl
@[simp] theorem inv_emit (s : State) (r : Record) : Inv (s.emit r) ↔ Inv s := Iff.rfl
@[simp] theorem inv_takeEvent (s : State) (a : Agent) : Inv (s.takeEvent a) ↔ Inv s := Iff.rfl
@[simp] theorem inv_arrive (s : State) (a : Agent) (w : Word64) :
    Inv (s.arrive a w) ↔ Inv s := Iff.rfl
@[simp] theorem inv_assertReset (s : State) : Inv s.assertReset ↔ Inv s := Iff.rfl

/-- Reset keeps the number of entries (R250). -/
theorem inv_applyReset {s : State} (hs : Inv s) : Inv s.applyReset := by
  obtain ⟨-, -, ⟨low, high⟩, -⟩ := hs
  exact inv_resetWith low high

theorem CommandEffect.inv {i : Instr} {s u : State} (h : CommandEffect s i u) (hs : Inv s) :
    Inv u := by
  obtain ⟨hclock, hentries, hnPE, hdecoder⟩ := hs
  refine ⟨h.clockInv hclock, h.entriesInv hentries hclock.millis_lt, ?_, h.decoderInv hdecoder⟩
  rw [h.entryWrites.1]
  exact hnPE

theorem inv_exec {i : Instr} {s t : State} (h : exec i s = .next t) (hs : Inv s) : Inv t := by
  obtain ⟨u, hu, rfl⟩ := effect_of_exec h
  exact (inv_advance u).2 (hu.inv hs)

theorem inv_step {s t : State} (hs : Inv s) (h : step s = .next t) : Inv t := by
  obtain ⟨-, he⟩ | ⟨-, -, he⟩ | ⟨a, w, -, -, ⟨e, -, he⟩ | ⟨i, -, he⟩⟩ := oneStep_cases s
  · cases h.symm.trans he
    exact inv_applyReset hs
  · cases h.symm.trans he
  · cases h.symm.trans he
    simpa using hs
  · exact inv_exec (he.symm.trans h) ((inv_takeEvent s a).2 hs)

theorem Reachable.inv {s : State} (h : Reachable s) : Inv s := by
  induction h with
  | reset n low high => exact inv_resetWith low high
  | arrive a w s _ ih => exact (inv_arrive s a w).2 ih
  | assertReset s _ ih => exact (inv_assertReset s).2 ih
  | step s t _ e ih => exact inv_step ih e

/-! ### FAST_TICK and PRECISE_TICK (R100, R101) -/

/-- The arbitration writes `millis` and `sync1` only. -/
theorem countMilli_eq (s : State) : ∃ m k, s.countMilli = { s with millis := m, sync1 := k } := by
  by_cases h : s.sync1.toNat < Config.syncPark
  · exact ⟨_, _, countMilli_of_below h⟩
  · exact ⟨_, _, countMilli_of_parked h⟩

/-- A fast tick takes one of the places left before the park, if there is one (R107). -/
theorem exec_fastTick_parks {s : State} (hs : s.sync1.toNat ≤ 999) :
    ∃ t, exec .fastTick s = .next t ∧
      t.millis = s.millis + BitVec.ofNat 64 (min 1 (999 - s.sync1.toNat)) ∧
      t.sync1.toNat = s.sync1.toNat + min 1 (999 - s.sync1.toNat) ∧
      t.sync2.toNat = (s.sync2.toNat + 1) % 2 ^ 16 ∧
      t.seconds = s.seconds ∧ t.driftError = s.driftError ∧ t.outs = s.outs := by
  obtain ⟨u, hu, he⟩ := exec_effect .fastTick s
  refine ⟨u.advance, he, ?_⟩
  cases hu with
  | countMilli hpark =>
    have hplaces : min 1 (999 - s.sync1.toNat) = 1 := by
      have : s.sync1.toNat < 999 := hpark
      omega
    rw [hplaces]
    exact ⟨rfl, toNat_sync1_succ hpark, BitVec.toNat_add _ _, rfl, rfl, rfl⟩
  | parked hpark =>
    have hplaces : min 1 (999 - s.sync1.toNat) = 0 := by
      have : 999 ≤ s.sync1.toNat := hpark
      omega
    rw [hplaces]
    exact ⟨(BitVec.add_zero _).symm, rfl, BitVec.toNat_add _ _, rfl, rfl, rfl⟩
  | missingEntry hk => cases hk

theorem exec_preciseTick_driftError {s t : State} (h : exec .preciseTick s = .next t) :
    t.driftError = s.sync2 + 1 - Config.errNominal := by
  cases h
  rfl

/-- Where the seconds do not wrap, PRECISE_TICK does not move time backward (R109). -/
theorem preciseTick_time_le {s : State} (hs : ClockInv s) (h : s.seconds.toNat ≠ 2 ^ 32 - 1) :
    s.seconds.toNat ≤ (s.seconds + 1).toNat ∧
      s.millis.toNat ≤ (anchorOf (s.seconds + 1)).toNat := by
  obtain ⟨hpark, -, hhigh⟩ := hs
  have hseconds : (s.seconds + 1).toNat = s.seconds.toNat + 1 := by bv_omega
  rw [toNat_anchorOf, hseconds]
  omega

/-! ### Counting the fast ticks (R110) -/

/-- `wrap_16(n - 1000)` as two's complement (R101). -/
theorem ofNat_sub_errNominal (n : Nat) :
    BitVec.ofNat 16 n - Config.errNominal = BitVec.ofInt 16 ((n : Int) - 1000) := by
  rw [sub_eq_add_neg (n : Int), BitVec.ofInt_add, BitVec.ofInt_natCast, BitVec.sub_eq_add_neg]
  rfl

theorem eq_tick_of_opcode {i : Instr} (h : i.opcode ∈ [.fastTick, .preciseTick]) :
    i = .fastTick ∨ i = .preciseTick := by
  cases i <;> simp [Instr.opcode] at h ⊢

/-- Only a tick moves `sync2`, and of the two only FAST_TICK counts into it (R24). -/
theorem exec_sync2 {i : Instr} {s t : State} (hi : i ≠ .preciseTick) (h : exec i s = .next t) :
    t.sync2 = s.sync2 + BitVec.ofNat 16 ([i].count .fastTick) := by
  obtain ⟨u, hu, rfl⟩ := effect_of_exec h
  by_cases hfast : i = .fastTick
  · subst hfast
    cases hu with
    | countMilli | parked => rfl
    | missingEntry hk => cases hk
  · obtain ⟨-, -, -, hsync2, -⟩ := hu.rtcWrites
    have hkept : u.sync2 = s.sync2 := by
      by_contra hne
      exact (eq_tick_of_opcode (hsync2 hne)).elim hfast hi
    simp [hkept, hfast]

/-- Along a run without PRECISE_TICK `sync2` counts the fast ticks (R110). -/
theorem runAll_sync2 {cs : List Instr} (s : State) (h : Instr.preciseTick ∉ cs) :
    ∃ u, runAll cs s = .next u ∧ u.sync2 = s.sync2 + BitVec.ofNat 16 (cs.count .fastTick) := by
  induction cs generalizing s with
  | nil => exact ⟨s, rfl, by simp⟩
  | cons c cs ih =>
    obtain ⟨hc, hcs⟩ := not_or.1 (mt List.mem_cons.2 h)
    obtain ⟨t, ht⟩ := exec_eq_done c s
    obtain ⟨u, hu, hsync2⟩ := ih t.advance hcs
    refine ⟨u, (runAll_cons_of_next cs ht).trans hu, ?_⟩
    have hcount : (c :: cs).count .fastTick = [c].count .fastTick + cs.count .fastTick :=
      List.count_append (l₁ := [c])
    rw [hsync2, exec_sync2 (Ne.symm hc) ht, hcount, BitVec.ofNat_add, BitVec.add_assoc]

/-! ### Commands that only emit a record -/

theorem emit_advance_frame (s : State) (r : Record) :
    SameRtc s (s.emit r).advance ∧ SamePet s (s.emit r).advance ∧ SameDcf s (s.emit r).advance ∧
      SameInputs s (s.emit r).advance ∧ NoDraw s (s.emit r).advance ∧
      Emits [r] s (s.emit r).advance :=
  ⟨⟨rfl, rfl, rfl, rfl, rfl⟩, rfl, ⟨rfl, rfl, rfl, rfl⟩, ⟨rfl, rfl⟩, rfl, rfl, rfl⟩

/-! ### The occurrence condition in exact integers (R140) -/

theorem firesAt_iff {p : PeriodicEvent} {now : Word64} :
    FiresAt p now ↔ p.exhausted = false ∧ p.elapsed now = true := by
  rw [FiresAt, ← exhausted_iff, elapsed_iff, Bool.not_eq_true]

theorem occ_of_firesAt {p : PeriodicEvent} {now : Word64} (h : FiresAt p now) :
    occ p now = (true, p.fire now) := by
  obtain ⟨hx, he⟩ := firesAt_iff.1 h
  simp [occ, hx, he]

theorem occ_of_not_firesAt {p : PeriodicEvent} {now : Word64} (h : ¬ FiresAt p now) :
    occ p now = (false, p) := by
  obtain ⟨hx, he, -⟩ | ⟨-, ho⟩ := occ_cases p now
  · exact absurd (firesAt_iff.2 ⟨hx, he⟩) h
  · exact ho

/-- A firing exhausts the entry exactly when the count reaches the max (R36, R140). -/
theorem fire_exhausted_iff {p : PeriodicEvent} (now : Word64) (h : p.exhausted = false) :
    (p.fire now).exhausted = true ↔ p.max ≠ 0 ∧ (p.fire now).count = p.max := by
  rw [exhausted_iff, fire_max]
  refine and_congr_right fun hm => ?_
  have hlt := count_lt_max h hm
  have hcount := toNat_fire_count now h
  rw [if_neg hm] at hcount
  rw [BitVec.toNat_inj.symm]
  omega

/-! ### CORR_CHECK (R105) -/

/-- The seconds do not wrap below 0. -/
theorem toNat_pred_seconds {s : State} (h : s.seconds ≠ 0) :
    (s.seconds - 1).toNat + 1 = s.seconds.toNat := by
  bv_omega

theorem setEntry_sameOtherEntries (k : Byte) (s : State) (q : PeriodicEvent) :
    SameOtherEntries k s (s.setEntry k q) :=
  ⟨nPE_setEntry s k q, fun _ hj => entry?_setEntry_ne s q hj⟩

theorem exec_corrCheck {k : Byte} {s : State} {p : PeriodicEvent} (h : s.entry? k = some p) :
    exec (.corrCheck k) s = corrCheckEntry k s p :=
  withEntry_some _ h

/-! ### The obligations -/

/-- Settles O60: the reset input, an illegal word and a command each keep every part. -/
theorem everyStepKeepsTheInvariant : Obligations.EveryStepKeepsTheInvariant :=
  fun _ _ hs h => inv_step hs h

/-- Settles O21: the clock relation is a part of the invariant, which every reached state has. -/
theorem reachedStatesKeepTheClockRelation : Obligations.ReachedStatesKeepTheClockRelation := by
  intro s h
  obtain ⟨hclock, -⟩ := h.inv
  have ⟨hpark, hlow, hhigh⟩ := hclock
  exact ⟨hpark, hclock.millis_lt, s.millis.toNat - s.seconds.toNat * 1000, by omega, by omega⟩

/-- Settles O25: the run counts into `sync2`, and PRECISE_TICK counts itself and latches. -/
theorem driftErrorCountsTheFastTicks : Obligations.DriftErrorCountsTheFastTicks := by
  intro cs s h0 hcs
  obtain ⟨u, hu, hsync2⟩ := runAll_sync2 s hcs
  rw [h0, show (0 : Word16) = 0#16 from rfl, BitVec.zero_add] at hsync2
  refine ⟨⟨u, hu, by rw [hsync2, BitVec.toNat_ofNat]⟩, ?_⟩
  obtain ⟨t, ht⟩ := exec_eq_done .preciseTick u
  have hdrift : t.advance.driftError = BitVec.ofInt 16 ((cs.count .fastTick : Int) + 1 - 1000) := by
    have hticks : u.sync2 + 1 = BitVec.ofNat 16 (cs.count .fastTick + 1) := by
      rw [hsync2, BitVec.ofNat_add]
      rfl
    rw [exec_preciseTick_driftError ht, hticks]
    exact ofNat_sub_errNominal _
  refine ⟨t.advance, (runAll_append hu).trans (runAll_cons_of_next [] ht), hdrift, fun hn => ?_,
    fun hn => ?_⟩
  · rw [hdrift, hn]
    rfl
  · rw [hdrift, hn]
    rfl

/-- Settles O20: the occurrence condition, then the underflow check. -/
theorem corrCheckTakesOneSecondBack : Obligations.CorrCheckTakesOneSecondBack := by
  refine fun i => ⟨rfl, rfl, fun s p hp => ⟨fun hf => ?idle, fun hf h0 => ?underflow,
    fun hf h0 => ?fires⟩⟩
  case idle =>
    exact ⟨_, exec_corrCheck_of_idle hp (occ_of_not_firesAt hf), emit_advance_frame s _⟩
  case underflow =>
    exact ⟨_, (exec_corrCheck hp).trans (corrCheckEntry_of_underflow (occ_of_firesAt hf) h0),
      emit_advance_frame s _⟩
  case fires =>
    obtain ⟨hx, -⟩ := firesAt_iff.1 hf
    have hexec := (exec_corrCheck hp).trans (corrCheckEntry_of_fires (occ_of_firesAt hf) h0)
    exact ⟨_, p.fire s.now, hexec, toNat_pred_seconds h0, toNat_anchorOf _, rfl, rfl, rfl,
      entry?_setEntry_self _ (entry?_eq_some_lt hp), rfl, rfl, rfl, toNat_fire_count _ hx,
      fire_exhausted_iff _ hx, setEntry_sameOtherEntries i s _, ⟨rfl, rfl, rfl, rfl⟩, ⟨rfl, rfl⟩,
      rfl, rfl, rfl⟩

/-- Settles O15: below the park, parked, and what both leave alone. -/
theorem fastTickAdvancesUntilThePark : Obligations.FastTickAdvancesUntilThePark := by
  refine ⟨rfl, rfl, fun s => ⟨s.countMilli.countTick.advance, rfl, fun h => ?below,
    fun h => ?parked, ?both⟩⟩
  case below =>
    rw [countMilli_of_below h]
    exact ⟨BitVec.toNat_add _ _, toNat_sync1_succ h⟩
  case parked =>
    rw [countMilli_of_parked (Nat.not_lt.2 h)]
    exact ⟨rfl, rfl⟩
  case both =>
    obtain ⟨m, k, hm⟩ := countMilli_eq s
    rw [hm]
    exact ⟨BitVec.toNat_add _ _, rfl, rfl, rfl, ⟨rfl, rfl, rfl, rfl⟩, ⟨rfl, rfl⟩, rfl,
      (List.append_nil _).symm, rfl⟩

/-- Settles O22, by induction on the ticks: each one uses up at most one of the places left. -/
theorem fastTicksParkAtMost999 : Obligations.FastTicksParkAtMost999 := by
  intro n
  induction n with
  | zero =>
    intro s _
    have := s.sync2.isLt
    exact ⟨s, rfl, by simp, by simp, by omega, rfl, rfl, rfl⟩
  | succ n ih =>
    intro s hs
    obtain ⟨t, ht, hmillis, hsync1, hsync2, hseconds, hdrift, houts⟩ := exec_fastTick_parks hs
    obtain ⟨u, hu, hmillis', hsync1', hsync2', hseconds', hdrift', houts'⟩ := ih t (by omega)
    have hplaces : min (n + 1) (999 - s.sync1.toNat) =
        min 1 (999 - s.sync1.toNat) + min n (999 - t.sync1.toNat) := by omega
    refine ⟨u, (runAll_cons_of_next _ ht).trans hu, ?_, by omega, by omega,
      hseconds'.trans hseconds, hdrift'.trans hdrift, houts'.trans houts⟩
    rw [hmillis', hmillis, hplaces, BitVec.ofNat_add, BitVec.add_assoc]

/-- Settles O16: the tick counts itself before the drift error is latched. -/
theorem preciseTickEndsTheSecond : Obligations.PreciseTickEndsTheSecond := by
  refine ⟨rfl, rfl, fun s => ⟨_, rfl, ?_, BitVec.toNat_add _ _, toNat_anchorOf _, rfl, rfl, rfl,
    ⟨rfl, rfl, rfl, rfl⟩, ⟨rfl, rfl⟩, rfl, (List.append_nil _).symm, rfl⟩⟩
  have hticks : s.sync2 + 1 = BitVec.ofNat 16 ((s.sync2.toNat + 1) % 2 ^ 16) :=
    BitVec.eq_of_toNat_eq (by simp)
  rw [exec_preciseTick_driftError rfl, hticks]
  exact ofNat_sub_errNominal _

/-- Settles O23: `millis` was `d` past the second that ends, and is 1000 past it. -/
theorem preciseTickJumpsAtMostOneSecond : Obligations.PreciseTickJumpsAtMostOneSecond := by
  intro s
  obtain ⟨-, -, htick⟩ := preciseTickEndsTheSecond
  obtain ⟨t, ht, -, hseconds, hmillis, hsync1, hsync2, -⟩ := htick s
  refine ⟨t, ht, hmillis, hsync1, hsync2, fun ⟨hpark, hlow, hhigh⟩ hlast => ?_⟩
  exact ⟨s.millis.toNat - s.seconds.toNat * 1000, by omega, by omega, by omega, by omega, by omega⟩

/-- Settles O24: a tick moves time forward, and every other command left leaves it. -/
theorem timeMovesBackwardOnlyBySetOrCorrection :
    Obligations.TimeMovesBackwardOnlyBySetOrCorrection := by
  intro i s t hs h hset hcorr hwrap
  obtain ⟨u, hu, rfl⟩ := effect_of_exec h
  cases hu with
  | countMilli => exact ⟨le_rfl, (Nat.le_succ _).trans_eq hs.toNat_millis_succ.symm⟩
  | preciseTick => exact preciseTick_time_le hs (hwrap rfl)
  | setTime v => exact absurd rfl (hset v)
  | corrFires => exact absurd rfl (hcorr _)
  | dcfEdge e level =>
    obtain ⟨⟨hmillis, hseconds, -⟩, -⟩ :=
      edgeEffect_sameOutsideFrame (Config.freeDraw s.freeIndex) e level s
    simp [hmillis, hseconds]
  | parked | readTime | readDiag | missingEntry | corrIdle | corrUnderflow | dcfOn | dcfOff
  | readDcf | peConfig | peOccurred | peReset | readPe => exact ⟨le_rfl, le_rfl⟩

/-- Settles O17: SET_TIME writes the clock and emits `ACK`. -/
theorem setTimeOverwritesBothCounters : Obligations.SetTimeOverwritesBothCounters :=
  fun v => ⟨rfl, rfl, fun _ => ⟨_, rfl, rfl, toNat_anchorOf v, rfl, rfl, rfl, rfl,
    ⟨rfl, rfl, rfl, rfl⟩, ⟨rfl, rfl⟩, rfl, rfl, rfl⟩⟩

/-- Settles O18: READ_TIME only emits its record. -/
theorem readTimeReturnsThePair : Obligations.ReadTimeReturnsThePair :=
  ⟨rfl, rfl, fun s => ⟨_, rfl, emit_advance_frame s _⟩⟩

/-- Settles O19: READ_DIAG only emits its record. -/
theorem readDiagReturnsTheSyncCounters : Obligations.ReadDiagReturnsTheSyncCounters :=
  ⟨rfl, rfl, fun s => ⟨_, rfl, emit_advance_frame s _⟩⟩

end Sys2Proof.Machine

/-!
PROOFS of 41_periodic.md: the occurrence function and the four entry commands (R140 to R144), and
the firings of an entry along a run that does not re-arm it (R145 to R149).

A command that does not re-arm an entry fires it or leaves it (`exec_of_firesBy`,
`entry?_of_not_firesBy`), so a run takes it through a chain of firings (`FiresInto`).  The rules on
counts and times are facts about such chains.
-/

namespace Sys2Proof.Machine

/-! ### When a command fires an entry (R140, R142, R105) -/

theorem due_iff {i : Byte} {s : State} {p : PeriodicEvent} (hp : s.entry? i = some p) :
    due i s = true ↔ FiresAt p s.millis := by
  rw [due, hp, firesAt_iff, elapsed_iff]
  exact occ_fst_iff p s.now

theorem firesBy_iff {i : Byte} {c : Instr} {s : State} :
    firesBy i c s = true ↔
      due i s = true ∧ (c = .peOccurred i ∨ c = .corrCheck i ∧ s.seconds ≠ 0) := by
  cases c with
  | peOccurred k => simp [firesBy, and_comm]
  | corrCheck k => simp [firesBy, and_left_comm, and_assoc]
  | fastTick | preciseTick | setTime | readTime | readDiag | dcfEdge | dcfOn | dcfOff | readDcf
  | peConfig | peReset | readPe => simp [firesBy]

/-- A command that fires an entry does so because the occurrence condition holds, and writes the
fired entry. -/
theorem exec_of_firesBy {i : Byte} {c : Instr} {s : State} {p : PeriodicEvent}
    (hp : s.entry? i = some p) (h : firesBy i c s = true) :
    FiresAt p s.millis ∧ ∃ t, exec c s = .next t ∧ t.entry? i = some (p.fire s.now) := by
  obtain ⟨hdue, hc⟩ := firesBy_iff.1 h
  have hf := (due_iff hp).1 hdue
  have ho : occ p s.now = (true, p.fire s.now) := occ_of_firesAt hf
  have hwritten := entry?_setEntry_self (p.fire s.now) (entry?_eq_some_lt hp)
  obtain rfl | ⟨rfl, h0⟩ := hc
  · exact ⟨hf, _, exec_peOccurred hp, by rw [ho]; exact hwritten⟩
  · exact ⟨hf, _, (exec_corrCheck hp).trans (corrCheckEntry_of_fires ho h0), hwritten⟩

/-- A command that neither re-arms an entry nor fires it leaves it as it is. -/
theorem entry?_of_not_firesBy {i : Byte} {c : Instr} {s t : State} {p : PeriodicEvent}
    (hp : s.entry? i = some p) (hr : rearms i c = false) (hf : firesBy i c s = false)
    (h : exec c s = .next t) : t.entry? i = some p := by
  obtain ⟨u, hu, rfl⟩ := effect_of_exec h
  have hother {k : Byte} (q : PeriodicEvent) (hk : k ≠ i) : (s.setEntry k q).entry? i = some p :=
    (entry?_setEntry_ne s q hk.symm).trans hp
  cases hu with
  | peConfig | peReset => exact hother _ (by simpa [rearms] using hr)
  | @peOccurred k q hq =>
    by_cases hk : k = i
    · subst hk
      cases hq.symm.trans hp
      have hidle : (occ p s.now).1 = false := by simpa [firesBy, due, hp] using hf
      have hkept : (occ p s.now).2 = p := by
        obtain ⟨-, -, ho⟩ | ⟨-, ho⟩ := occ_cases p s.now
        · simp [ho] at hidle
        · rw [ho]
      rw [hkept]
      exact entry?_of_write hp p _
    · exact hother _ hk
  | @corrFires k q hq ho h0 =>
    refine hother _ ?_
    rintro rfl
    exact h0 (by simpa [firesBy, due, hq, ho] using hf)
  | dcfEdge e level =>
    obtain ⟨-, hpe, -⟩ := edgeEffect_sameOutsideFrame (Config.freeDraw s.freeIndex) e level s
    exact (congrArg (·[i.toNat]?) hpe).trans hp
  | countMilli | parked | preciseTick | setTime | readTime | readDiag | missingEntry | corrIdle
  | corrUnderflow | dcfOn | dcfOff | readDcf | readPe => exact hp

/-! ### Chains of firings -/

/-- `n` firings, each when its occurrence condition holds, take the first entry to the second. -/
inductive FiresInto : Nat → PeriodicEvent → PeriodicEvent → Prop where
  | refl (p : PeriodicEvent) : FiresInto 0 p p
  | fire {n : Nat} {p q : PeriodicEvent} (now : Word64) (h : FiresAt p now)
      (rest : FiresInto n (p.fire now) q) : FiresInto (n + 1) p q

theorem FiresInto.settings {n : Nat} {p q : PeriodicEvent} (h : FiresInto n p q) :
    q.delay = p.delay ∧ q.max = p.max := by
  induction h with
  | refl p => exact ⟨rfl, rfl⟩
  | fire _ _ _ ih => exact ih

/-- Each firing of a bounded entry counts, and none of an unbounded one does (R140). -/
theorem FiresInto.count {n : Nat} {p q : PeriodicEvent} (h : FiresInto n p q) :
    q.count.toNat = p.count.toNat + (if p.max = 0 then 0 else n) := by
  induction h with
  | refl p => simp
  | @fire n p q now hf _ ih =>
    obtain ⟨hx, -⟩ := firesAt_iff.1 hf
    rw [ih, toNat_fire_count now hx, fire_max]
    split_ifs <;> omega

/-- A bounded entry does not fire past its max: it is exhausted there (R147). -/
theorem FiresInto.count_le_max {n : Nat} {p q : PeriodicEvent} (h : FiresInto n p q)
    (hm : p.max ≠ 0) (hp : p.count.toNat ≤ p.max.toNat) : q.count.toNat ≤ p.max.toNat := by
  induction h with
  | refl p => exact hp
  | @fire n p q now hf _ ih =>
    obtain ⟨hx, -⟩ := firesAt_iff.1 hf
    have hroom := count_lt_max hx hm
    refine ih hm ?_
    rw [toNat_fire_count now hx, if_neg hm, fire_max]
    exact hroom

/-- Each firing moves `last` by the delay or more (R149). -/
theorem FiresInto.last {n : Nat} {p q : PeriodicEvent} (h : FiresInto n p q) :
    p.last.toNat + n * p.delay.toNat ≤ q.last.toNat := by
  induction h with
  | refl p => simp
  | @fire n p q now hf _ ih =>
    obtain ⟨-, hwindow⟩ := hf
    rw [fire_last, fire_delay] at ih
    rw [Nat.succ_mul]
    omega

/-! ### Runs that do not re-arm the entry -/

theorem firings_cons_of_next {i : Byte} {c : Instr} {s t : State} (cs : List Instr)
    (h : exec c s = .next t) :
    firings i (c :: cs) s = (firesBy i c s).toNat + firings i cs t := by
  rw [firings, h]

theorem staysBelow_cons_of_next {bound : Nat} {c : Instr} {s t : State} {cs : List Instr}
    (h : exec c s = .next t) :
    staysBelow bound (c :: cs) s ↔ s.millis.toNat < bound ∧ staysBelow bound cs t := by
  rw [staysBelow, h]

theorem not_rearms_cons {i : Byte} {c : Instr} {cs : List Instr}
    (h : (c :: cs).all (fun x => !rearms i x) = true) :
    rearms i c = false ∧ cs.all (fun x => !rearms i x) = true := by
  simpa using h

/-- A run that does not re-arm an entry takes it through its firings. -/
theorem runAll_firesInto {i : Byte} {s : State} {p : PeriodicEvent} {cs : List Instr}
    (hp : s.entry? i = some p) (hcs : cs.all (fun x => !rearms i x) = true) :
    ∃ t q, runAll cs s = .next t ∧ t.entry? i = some q ∧ FiresInto (firings i cs s) p q := by
  induction cs generalizing s p with
  | nil => exact ⟨s, p, rfl, hp, .refl p⟩
  | cons c cs ih =>
    obtain ⟨hc, hcs⟩ := not_rearms_cons hcs
    cases hf : firesBy i c s with
    | true =>
      obtain ⟨hat, t, ht, hpt⟩ := exec_of_firesBy hp hf
      obtain ⟨u, q, hu, hq, hchain⟩ := ih hpt hcs
      refine ⟨u, q, (runAll_cons_of_next cs ht).trans hu, hq, ?_⟩
      rw [firings_cons_of_next cs ht, hf, Bool.toNat_true, Nat.add_comm]
      exact .fire s.now hat hchain
    | false =>
      obtain ⟨t, ht⟩ := exec_eq_done c s
      obtain ⟨u, q, hu, hq, hchain⟩ := ih (entry?_of_not_firesBy hp hc hf ht) hcs
      refine ⟨u, q, (runAll_cons_of_next cs ht).trans hu, hq, ?_⟩
      rw [firings_cons_of_next cs ht, hf, Bool.toNat_false, Nat.zero_add]
      exact hchain

/-- While `millis` stays below `last + delay` the entry does not fire (R145, R146, R148). -/
theorem firings_eq_zero_of_staysBelow {i : Byte} {s : State} {p : PeriodicEvent} {cs : List Instr}
    (hp : s.entry? i = some p) (hcs : cs.all (fun x => !rearms i x) = true)
    (hbelow : staysBelow (p.last.toNat + p.delay.toNat) cs s) : firings i cs s = 0 := by
  induction cs generalizing s with
  | nil => rfl
  | cons c cs ih =>
    obtain ⟨hc, hcs⟩ := not_rearms_cons hcs
    obtain ⟨t, ht⟩ := exec_eq_done c s
    obtain ⟨hnow, hbelow⟩ := (staysBelow_cons_of_next ht).1 hbelow
    have hf : firesBy i c s = false := by
      rw [Bool.eq_false_iff]
      intro hf
      obtain ⟨⟨-, hwindow⟩, -⟩ := exec_of_firesBy hp hf
      omega
    rw [firings_cons_of_next cs ht, hf, ih (entry?_of_not_firesBy hp hc hf ht) hcs hbelow]
    rfl

/-! ### Commands that write one entry -/

theorem entryWrite_frame (i : Byte) (s : State) (q : PeriodicEvent) (r : Record) :
    SameOtherEntries i s ((s.setEntry i q).emit r).advance ∧
      SameRtc s ((s.setEntry i q).emit r).advance ∧
      SameDcf s ((s.setEntry i q).emit r).advance ∧
      SameInputs s ((s.setEntry i q).emit r).advance ∧
      NoDraw s ((s.setEntry i q).emit r).advance ∧
      Emits [r] s ((s.setEntry i q).emit r).advance :=
  ⟨setEntry_sameOtherEntries i s q, ⟨rfl, rfl, rfl, rfl, rfl⟩, ⟨rfl, rfl, rfl, rfl⟩, ⟨rfl, rfl⟩,
    rfl, rfl, rfl⟩

theorem exec_peConfig {i : Byte} {s : State} {p : PeriodicEvent} (d : Word32) (m : Byte)
    (h : s.entry? i = some p) :
    exec (.peConfig i d m) s = .next ((s.setEntry i
      (PeriodicEvent.arm s.now { p with delay := d, max := m })).emit .ack).advance :=
  withEntry_some _ h

theorem exec_peReset {i : Byte} {s : State} {p : PeriodicEvent} (h : s.entry? i = some p) :
    exec (.peReset i) s = .next ((s.setEntry i (p.arm s.now)).emit .ack).advance :=
  withEntry_some _ h

theorem exec_readPe {i : Byte} {s : State} {p : PeriodicEvent} (h : s.entry? i = some p) :
    exec (.readPe i) s = .next (s.emit (.pestat p.delay p.max p.last p.count)).advance :=
  withEntry_some _ h

theorem exec_peOccurred_of_not_firesAt {i : Byte} {s : State} {p : PeriodicEvent}
    (h : s.entry? i = some p) (hf : ¬ FiresAt p s.millis) :
    exec (.peOccurred i) s = .next (s.emit (.fired false)).advance := by
  have ho : occ p s.now = (false, p) := occ_of_not_firesAt hf
  rw [exec_peOccurred h, ho, setEntry_same h]

theorem exec_peOccurred_of_firesAt {i : Byte} {s : State} {p : PeriodicEvent}
    (h : s.entry? i = some p) (hf : FiresAt p s.millis) :
    exec (.peOccurred i) s =
      .next ((s.setEntry i (p.fire s.now)).emit (.fired true)).advance := by
  have ho : occ p s.now = (true, p.fire s.now) := occ_of_firesAt hf
  rw [exec_peOccurred h, ho]

/-! ### The obligations -/

/-- Settles O36: the run is a chain of firings, and each one counts towards the max. -/
theorem boundedEntryFiresAtMostMaxTimes : Obligations.BoundedEntryFiresAtMostMaxTimes := by
  intro i s p cs hp h0 hcs
  obtain ⟨t, q, ht, hq, hchain⟩ := runAll_firesInto hp hcs
  obtain ⟨-, hmax⟩ := hchain.settings
  have hcount := hchain.count
  rw [h0, show (0 : Byte).toNat = 0 from rfl, Nat.zero_add] at hcount
  refine ⟨t, q, ht, hq, hmax, fun hm => ?bounded, fun hm => ?unbounded, fun hm hn => ?exhausted⟩
  case bounded =>
    rw [if_neg hm] at hcount
    exact ⟨hcount.symm, hchain.count_le_max hm (by simp [h0])⟩
  case unbounded =>
    rw [if_pos hm] at hcount
    exact ⟨BitVec.eq_of_toNat_eq hcount, by simp [PeriodicEvent.exhausted, hmax, hm]⟩
  case exhausted =>
    rw [if_neg hm, hn] at hcount
    rw [Bool.eq_false_iff, Ne, due_iff hq]
    exact fun ⟨hx, _⟩ => hx ⟨hmax ▸ hm, by rw [hmax, hcount]⟩

/-- Settles O38: every firing of the run moved `last` by the delay, and the next one waits for
another. -/
theorem firingsNeverRunAhead : Obligations.FiringsNeverRunAhead := by
  intro i s u p cs c hp hcs hu hc
  obtain ⟨t, q, ht, hq, hchain⟩ := runAll_firesInto hp hcs
  cases hu.symm.trans ht
  obtain ⟨hdelay, -⟩ := hchain.settings
  have hlast := hchain.last
  obtain ⟨⟨-, hwindow⟩, v, hv, hfired⟩ := exec_of_firesBy hq hc
  refine ⟨?_, v, _, hv, hfired, rfl⟩
  rw [hdelay] at hwindow
  rw [Nat.succ_mul]
  omega

/-- Settles O34: the fired entry has `last = t`, so its window starts there; with delay 0 the window
is empty. -/
theorem entryFiresOncePerWindow : Obligations.EntryFiresOncePerWindow := by
  refine ⟨fun i c s t p cs hp hc ht hcs hbelow => ?_, fun i s p hp hx hd hlast => ?_⟩
  · obtain ⟨-, v, hv, hfired⟩ := exec_of_firesBy hp hc
    cases ht.symm.trans hv
    exact firings_eq_zero_of_staysBelow hfired hcs hbelow
  · rw [due_iff hp, firesAt_iff, elapsed_iff, hd]
    exact ⟨hx, hlast⟩

/-- Settles O35: PE_RESET sets `last = r`, so the window starts there. -/
theorem resetRestartsTheWindow : Obligations.ResetRestartsTheWindow := by
  intro i s p cs hp hcs
  exact ⟨_, exec_peReset hp, firings_eq_zero_of_staysBelow (entry?_of_write hp (p.arm s.now) _) hcs⟩

/-- Settles O37: the command neither re-arms the entry nor fires it, so its window stays; a run of
no firings leaves it. -/
theorem backwardTimeStallsEntries : Obligations.BackwardTimeStallsEntries := by
  intro i c s t p cs hp hc ht
  obtain ⟨hr, hf⟩ : rearms i c = false ∧ firesBy i c s = false := by
    obtain ⟨v, rfl⟩ | ⟨k, hk, rfl⟩ := hc
    · exact ⟨rfl, rfl⟩
    · exact ⟨rfl, by simp [firesBy, hk]⟩
  have hpt := entry?_of_not_firesBy hp hr hf ht
  refine ⟨hpt, fun hcs hbelow => ?_⟩
  have hnone := firings_eq_zero_of_staysBelow hpt hcs hbelow
  obtain ⟨u, q, hu, hq, hchain⟩ := runAll_firesInto hpt hcs
  rw [hnone] at hchain
  cases hchain
  exact ⟨hnone, u, hu, hq⟩

/-- Settles O30: the occurrence condition holds or not. -/
theorem peOccurredPollsTheEntry : Obligations.PeOccurredPollsTheEntry := by
  refine fun i => ⟨rfl, rfl, fun s p hp => ⟨fun hf => ?idle, fun hf => ?fires⟩⟩
  case idle => exact ⟨_, exec_peOccurred_of_not_firesAt hp hf, emit_advance_frame s _⟩
  case fires =>
    obtain ⟨hx, -⟩ := firesAt_iff.1 hf
    exact ⟨_, p.fire s.now, exec_peOccurred_of_firesAt hp hf, entry?_of_write hp _ _, rfl, rfl, rfl,
      toNat_fire_count _ hx, fire_exhausted_iff _ hx, entryWrite_frame i s _ _⟩

/-- Settles O28: an exhausted entry, an elapsed window, and neither. -/
theorem occurrenceFunction : Obligations.OccurrenceFunction := by
  refine fun p now =>
    ⟨fun hx => ?exhausted, fun hx => ⟨fun hwindow => ?fires, fun hearly => ?early⟩⟩
  case exhausted => exact occ_of_not_firesAt fun ⟨hroom, _⟩ => hroom hx
  case early => exact occ_of_not_firesAt fun ⟨_, hwindow⟩ => absurd hwindow (Nat.not_le.2 hearly)
  case fires =>
    have hf : FiresAt p now := ⟨hx, hwindow⟩
    obtain ⟨hx, -⟩ := firesAt_iff.1 hf
    have hcount := toNat_fire_count now hx
    rw [occ_of_firesAt hf]
    refine ⟨rfl, rfl, rfl, rfl, fun hm => ?_, fun hm => ?_⟩
    · rw [if_pos hm] at hcount
      exact BitVec.eq_of_toNat_eq hcount
    · rw [if_neg hm] at hcount
      exact ⟨hcount, count_lt_max hx hm⟩

/-- Settles O29: PE_CONFIG arms the entry with its new settings. -/
theorem peConfigCreatesAnArmedEntry : Obligations.PeConfigCreatesAnArmedEntry := by
  refine fun i d m => ⟨rfl, rfl, fun s hi => ?_⟩
  obtain ⟨p, hp⟩ := entry?_of_lt hi
  exact ⟨_, _, exec_peConfig d m hp, entry?_of_write hp _ _, rfl, rfl, rfl, rfl, arm_exhausted _ _,
    entryWrite_frame i s _ _⟩

/-- Settles O31: PE_RESET arms the entry with the settings it has. -/
theorem peResetRearmsTheEntry : Obligations.PeResetRearmsTheEntry :=
  fun i => ⟨rfl, rfl, fun s p hp => ⟨_, p.arm s.now, exec_peReset hp, entry?_of_write hp _ _, rfl,
    rfl, rfl, rfl, arm_exhausted _ _, entryWrite_frame i s _ _⟩⟩

/-- Settles O32: READ_PE only emits its record. -/
theorem readPeReturnsTheEntry : Obligations.ReadPeReturnsTheEntry :=
  fun _ => ⟨rfl, rfl, fun s _ hp => ⟨_, exec_readPe hp, emit_advance_frame s _⟩⟩

end Sys2Proof.Machine

/-!
PROOFS of 42_dcf.md: the edge-to-bit decoder (R170 to R180), the frame decode (R181 to R183), the
control commands (R184 to R186) and the laws on whole frames (R187 to R190).

The case analysis of R171 is one rule per case (`edgeEffect_of_…`).  Along a stream of pulses the
decoder holds the bits taken so far (`TookBits`), which the frame gap at the end reports.
-/

namespace Sys2Proof.Machine

/-! ### The classes of an edge duration (R170) -/

/-- The durations of a class (R170). -/
def Band.Covers (b : Band) (n : Nat) : Prop :=
  match b with
  | .ignored => n ≤ 30
  | .zero => 50 ≤ n ∧ n ≤ 149
  | .one => 150 ≤ n ∧ n ≤ 300
  | .gap => 1500 < n
  | .noise => (31 ≤ n ∧ n ≤ 49) ∨ (301 ≤ n ∧ n ≤ 1500)

/-- No duration lies in two classes. -/
theorem Band.Covers.eq_iff {a : Band} {n : Nat} (ha : a.Covers n) (b : Band) :
    a = b ↔ b.Covers n := by
  cases a with
  | ignored | zero | one | gap | noise =>
    cases b with
    | ignored | zero | one | gap | noise =>
      simp only [Band.Covers, reduceCtorEq, true_iff, false_iff] at ha ⊢
      omega

theorem band_covers (e : Word32) : (band e).Covers e.toNat := band_spec e

theorem band_eq_iff {e : Word32} {b : Band} : band e = b ↔ b.Covers e.toNat :=
  (band_covers e).eq_iff b

theorem band_eq_gap {e : Word32} (h : 1500 < e.toNat) : band e = .gap := band_eq_iff.2 h

theorem band_eq_noise {e : Word32}
    (h : (31 ≤ e.toNat ∧ e.toNat ≤ 49) ∨ (301 ≤ e.toNat ∧ e.toNat ≤ 1500)) : band e = .noise :=
  band_eq_iff.2 h

theorem isPulse_of_bounds {v : Bool} {e : Word32}
    (h : v = false ∧ 50 ≤ e.toNat ∧ e.toNat ≤ 149 ∨ v = true ∧ 150 ≤ e.toNat ∧ e.toNat ≤ 300) :
    IsPulse v e := by
  obtain ⟨rfl, hzero⟩ | ⟨rfl, hone⟩ := h
  · exact band_eq_iff.2 hzero
  · exact band_eq_iff.2 hone

/-- The bands of the two bits meet at 150. -/
theorem exists_isPulse {e : Word32} (hlow : 50 ≤ e.toNat) (hhigh : e.toNat ≤ 300) :
    ∃ v, IsPulse v e := by
  by_cases hzero : e.toNat ≤ 149
  · exact ⟨false, isPulse_of_bounds (.inl ⟨rfl, hlow, hzero⟩)⟩
  · exact ⟨true, isPulse_of_bounds (.inr ⟨rfl, by omega, hhigh⟩)⟩

/-! ### The cases of an edge (R171) -/

section Cases

variable {e : Word32} {s : State} (draw level : Bool)

theorem edgeEffect_of_off (he : s.enabled = false) : edgeEffect draw e level s = s := by
  simp [edgeEffect, he]

theorem edgeEffect_of_ignored (hb : band e = .ignored) : edgeEffect draw e level s = s := by
  simp [edgeEffect, hb]

theorem edgeEffect_of_noise (he : s.enabled = true) (hb : band e = .noise) :
    edgeEffect draw e level s = noiseEdge s := by
  simp [edgeEffect, he, hb]

theorem edgeEffect_of_gap_idle (he : s.enabled = true) (hs : s.streaming = false)
    (hg : 1500 < e.toNat) : edgeEffect draw e level s = startFrame s := by
  simp [edgeEffect, he, hs, band_eq_gap hg]

theorem edgeEffect_of_gap_streaming (he : s.enabled = true) (hs : s.streaming = true)
    (hg : 1500 < e.toNat) : edgeEffect draw e level s = endFrame s := by
  simp [edgeEffect, he, hs, band_eq_gap hg]

/-- The cases ZERO and ONE differ in the bit only. -/
theorem edgeEffect_of_pulse {v : Bool} (he : s.enabled = true) (hp : IsPulse v e) :
    edgeEffect draw e level s = pulse draw level v s := by
  cases v with
  | false | true => simp [edgeEffect, he, show band e = _ from hp]

end Cases

theorem pulse_of_idle {s : State} (draw level v : Bool) (hs : s.streaming = false) :
    pulse draw level v s = pulseIdle draw s := by
  simp [pulse, hs]

theorem pulse_of_streaming {s : State} (draw level v : Bool) (hs : s.streaming = true) :
    pulse draw level v s = pulseStreaming level v s := by
  simp [pulse, hs]

theorem noiseEdge_of_idle {s : State} (hs : s.streaming = false) : noiseEdge s = s := by
  simp [noiseEdge, hs]

theorem noiseEdge_of_streaming {s : State} (hs : s.streaming = true) :
    noiseEdge s = (s.emit .bitFail).goIdle := by
  simp [noiseEdge, hs]

theorem pulseIdle_eq (draw : Bool) (s : State) : pulseIdle draw s =
    { s with
      outs := s.outs ++ (if draw then [.bitFail] else []), freeIndex := s.freeIndex + 1 } := by
  cases draw with
  | false => simp [pulseIdle, State.useFree]
  | true => rfl

/-- DCF_EDGE runs a case that does not read the draw whatever the draw is. -/
theorem exec_dcfEdge {e : Word32} {level : Bool} {s u : State}
    (h : ∀ draw, edgeEffect draw e level s = u) : exec (.dcfEdge e level) s = .next u.advance :=
  congrArg State.done (h _)

theorem exec_dcfEdge_of_gap_idle {e : Word32} {s : State} (level : Bool) (he : s.enabled = true)
    (hs : s.streaming = false) (hg : 1500 < e.toNat) :
    exec (.dcfEdge e level) s = .next (startFrame s).advance :=
  exec_dcfEdge fun draw => edgeEffect_of_gap_idle draw level he hs hg

theorem exec_dcfEdge_of_gap_streaming {e : Word32} {s : State} (level : Bool)
    (he : s.enabled = true) (hs : s.streaming = true) (hg : 1500 < e.toNat) :
    exec (.dcfEdge e level) s = .next (endFrame s).advance :=
  exec_dcfEdge fun draw => edgeEffect_of_gap_streaming draw level he hs hg

theorem exec_dcfEdge_of_pulse_streaming {e : Word32} {v : Bool} {s : State} (level : Bool)
    (he : s.enabled = true) (hs : s.streaming = true) (hp : IsPulse v e) :
    exec (.dcfEdge e level) s = .next (pulseStreaming level v s).advance :=
  exec_dcfEdge fun draw =>
    (edgeEffect_of_pulse draw level he hp).trans (pulse_of_streaming draw level v hs)

/-! ### What a decoder command leaves alone -/

/-- A step that writes nothing but decoder registers, the records `rs` and the position. -/
theorem decoderWrite_frame {s t : State} {rs : List Record}
    (h : t = { s with
      enabled := t.enabled, streaming := t.streaming, cursor := t.cursor, buf := t.buf
      outs := s.outs ++ rs, pc := s.pc + 1 }) :
    SameRtc s t ∧ SamePet s t ∧ SameInputs s t ∧ NoDraw s t ∧ Emits rs s t := by
  rw [h]
  exact ⟨⟨rfl, rfl, rfl, rfl, rfl⟩, rfl, ⟨rfl, rfl⟩, rfl, rfl, rfl⟩

/-! ### The report of a frame gap (R175) -/

theorem frameRecord_of_sixty {s : State} (h : s.cursor.val = 60) :
    frameRecord s = decodeRecord s.buf := if_pos h

theorem frameRecord_of_ne_sixty {s : State} (h : s.cursor.val ≠ 60) :
    frameRecord s = .frameCountErr s.cursorField := if_neg h

/-! ### Streams of pulses (R189) -/

theorem getLsbD_telegramOf (bs : List Bool) (k : Nat) :
    (telegramOf bs).getLsbD k = (decide (k < 60) && bs.getD k false) := by
  by_cases hk : k < 60
  · simp [telegramOf, hk]
  · simp [BitVec.getLsbD_of_ge (telegramOf bs) k (Nat.le_of_not_lt hk), hk]

theorem telegramOf_nil : telegramOf [] = 0 := by
  apply BitVec.eq_of_getLsbD_eq
  intro k hk
  simp [getLsbD_telegramOf]

theorem getD_concat (bs : List Bool) (v : Bool) (k : Nat) :
    (bs ++ [v]).getD k false = if k = bs.length then v else bs.getD k false := by
  obtain hlt | rfl | hgt := Nat.lt_trichotomy k bs.length
  · rw [List.getD_append _ _ _ _ hlt, if_neg hlt.ne]
  · simp
  · rw [if_neg hgt.ne', List.getD_eq_default _ _ hgt.le, List.getD_eq_default]
    simpa using hgt

/-- A bit more in the list is one bit more in the buffer, if there is room. -/
theorem getLsbD_telegramOf_concat (bs : List Bool) (v : Bool) {k : Nat} (hk : k < 60) :
    (telegramOf (bs ++ [v])).getLsbD k =
      if k = bs.length then v else (telegramOf bs).getLsbD k := by
  simp only [getLsbD_telegramOf, hk, decide_true, Bool.true_and, getD_concat]

/-- Below 60 the bit goes to the cursor; above, every bit stays (R176). -/
theorem getLsbD_takeBit_of_lt (v : Bool) (s : State) {k : Nat} (hk : k < 60) :
    (takeBit v s).buf.getLsbD k = if k = s.cursor.val then v else s.buf.getLsbD k := by
  show (if s.cursor.val < 60 then bufSet s.buf s.cursor.val v else s.buf).getLsbD k = _
  split
  · next hroom => simp only [getLsbD_bufSet, hroom, and_true]
  · rw [if_neg (by omega)]

/-- From `s` a frame gap started streaming, and pulses of the bits `bs` have come since (R189). -/
structure TookBits (s : State) (bs : List Bool) (t : State) : Prop where
  enabled : t.enabled = true
  streaming : t.streaming = true
  cursor : t.cursor.val = min bs.length 61
  buf : t.buf = telegramOf bs
  outs : t.outs = s.outs ++ bs.map .bitOk
  rtc : SameRtc s t
  pet : SamePet s t
  pc : t.pc = s.pc + 1 + bs.length

theorem tookBits_startFrame {s : State} (he : s.enabled = true) :
    TookBits s [] (startFrame s).advance where
  enabled := he
  streaming := rfl
  cursor := rfl
  buf := telegramOf_nil.symm
  outs := (List.append_nil _).symm
  rtc := ⟨rfl, rfl, rfl, rfl, rfl⟩
  pet := rfl
  pc := rfl

/-- A pulse adds its bit; past the 60th one only its record shows it (R176, R188). -/
theorem TookBits.concat {s t : State} {bs : List Bool} (h : TookBits s bs t) (v : Bool) :
    TookBits s (bs ++ [v]) (takeBit v t).advance where
  enabled := h.enabled
  streaming := h.streaming
  cursor := by
    have hnext : (takeBit v t).advance.cursor.val = min (t.cursor.val + 1) 61 := rfl
    rw [hnext, h.cursor, List.length_append, List.length_singleton]
    omega
  buf := by
    apply BitVec.eq_of_getLsbD_eq
    intro k hk
    have hplace : k = t.cursor.val ↔ k = bs.length := by
      rw [h.cursor]
      omega
    rw [advance_buf, getLsbD_takeBit_of_lt v t hk, getLsbD_telegramOf_concat bs v hk, h.buf]
    simp only [hplace]
  outs := by
    have hemit : (takeBit v t).advance.outs = t.outs ++ [.bitOk v] := rfl
    rw [hemit, h.outs, List.map_append, List.append_assoc]
    rfl
  rtc := h.rtc
  pet := h.pet
  pc := by
    have hstep : (takeBit v t).advance.pc = t.pc + 1 := rfl
    rw [hstep, h.pc, List.length_append]
    rfl

/-- A stream of pulses adds its bits, in their order (R189). -/
theorem runAll_pulses {s t : State} {bs cs : List Bool} {es : List Word32}
    (hp : List.Forall₂ IsPulse cs es) (h : TookBits s bs t) :
    ∃ u, runAll (es.map (.dcfEdge · false)) t = .next u ∧ TookBits s (bs ++ cs) u := by
  induction hp generalizing bs t with
  | nil => exact ⟨t, rfl, by simpa using h⟩
  | @cons v e cs es hve _ ih =>
    obtain ⟨u, hu, htook⟩ := ih (h.concat v)
    have hpulse := exec_dcfEdge_of_pulse_streaming false h.enabled h.streaming hve
    exact ⟨u, (runAll_cons_of_next _ hpulse).trans hu, by simpa using htook⟩

/-- The gap after the pulses decodes exactly 60 of them, and reports any other number (R190). -/
theorem TookBits.frameRecord_eq {s t : State} {bs : List Bool} (h : TookBits s bs t) :
    frameRecord t = if bs.length = 60 then decodeRecord (telegramOf bs)
      else .frameCountErr (BitVec.ofNat 6 (min bs.length 61)) := by
  by_cases hsixty : bs.length = 60
  · rw [frameRecord_of_sixty (by rw [h.cursor]; omega), h.buf, if_pos hsixty]
  · rw [frameRecord_of_ne_sixty (by rw [h.cursor]; omega), State.cursorField, h.cursor,
      if_neg hsixty]

/-! ### Frames alternate (R187) -/

/-- The records of a decoded frame (R183). -/
def Record.isDecode (r : Record) : Bool :=
  match r with
  | .frameOk _ _ _ _ _ => true
  | .frameParityErr _ _ _ => true
  | _ => false

theorem isDecode_of_frame {r : Record} (h : (∃ mi h d mo y, r = .frameOk mi h d mo y) ∨
    ∃ a b c, r = .frameParityErr a b c) : r.isDecode = true := by
  obtain ⟨_, _, _, _, _, rfl⟩ | ⟨_, _, _, rfl⟩ := h
  · rfl
  · rfl

/-- Between the two states no frame was started and none decoded. -/
def NoFrame (s t : State) : Prop :=
  (t.streaming = true → s.streaming = true) ∧
    ∀ r : Record, t.outs = s.outs ++ [r] → r.isDecode = false

theorem noFrame_of_silent {s t : State} (hs : t.streaming = true → s.streaming = true)
    (ht : t.outs = s.outs) : NoFrame s t := by
  refine ⟨hs, fun r hr => ?_⟩
  simp [ht] at hr

theorem noFrame_of_report {s t : State} {x : Record}
    (hs : t.streaming = true → s.streaming = true) (ht : t.outs = s.outs ++ [x])
    (hx : x.isDecode = false) : NoFrame s t := by
  refine ⟨hs, fun r hr => ?_⟩
  cases List.append_cancel_left (ht.symm.trans hr)
  exact hx

theorem pulse_noFrame (draw level v : Bool) (s : State) :
    NoFrame s (pulse draw level v s) := by
  unfold pulse pulseStreaming pulseIdle
  split
  · split
    · exact noFrame_of_report id rfl rfl
    · exact noFrame_of_report id rfl rfl
  · split
    · exact noFrame_of_report id rfl rfl
    · exact noFrame_of_silent id rfl

theorem noiseEdge_noFrame (s : State) : NoFrame s (noiseEdge s) := by
  unfold noiseEdge
  split
  · exact noFrame_of_report nofun rfl rfl
  · exact noFrame_of_silent id rfl

/-- An edge that is no frame gap, or reaches a decoder that is off, starts and decodes no frame
(R172, R173, R176 to R180). -/
theorem edgeEffect_noFrame (draw : Bool) {e : Word32} (level : Bool) {s : State}
    (h : ¬ (s.enabled = true ∧ 1500 < e.toNat)) : NoFrame s (edgeEffect draw e level s) := by
  unfold edgeEffect
  split
  · next he =>
    cases hb : band e with
    | ignored => exact noFrame_of_silent id rfl
    | zero => exact pulse_noFrame draw level false s
    | one => exact pulse_noFrame draw level true s
    | gap => exact absurd ⟨he, band_eq_iff.1 hb⟩ h
    | noise => exact noiseEdge_noFrame s
  · exact noFrame_of_silent id rfl

/-- A frame gap with the decoder on flips the mode (R174, R175). -/
theorem edgeEffect_streaming_of_gap (draw level : Bool) {e : Word32} {s : State}
    (he : s.enabled = true) (hg : 1500 < e.toNat) :
    (edgeEffect draw e level s).streaming = !s.streaming := by
  cases hs : s.streaming with
  | false =>
    rw [edgeEffect_of_gap_idle draw level he hs hg]
    rfl
  | true =>
    rw [edgeEffect_of_gap_streaming draw level he hs hg]
    rfl

/-- A frame gap decodes only while streaming, at cursor 60 (R175). -/
theorem streaming_at_sixty_of_gap_decodes {draw level : Bool} {e : Word32} {s : State} {r : Record}
    (he : s.enabled = true) (hg : 1500 < e.toNat)
    (hr : (edgeEffect draw e level s).outs = s.outs ++ [r]) (hd : r.isDecode = true) :
    s.streaming = true ∧ s.cursor.val = 60 := by
  cases hs : s.streaming with
  | false =>
    rw [edgeEffect_of_gap_idle draw level he hs hg] at hr
    simp [startFrame] at hr
  | true =>
    rw [edgeEffect_of_gap_streaming draw level he hs hg] at hr
    have hrecord : frameRecord s = r := by simpa [endFrame] using hr
    refine ⟨rfl, ?_⟩
    by_contra hc
    rw [← hrecord, frameRecord_of_ne_sixty hc] at hd
    cases hd

/-- Only a frame gap with the decoder on starts or decodes a frame: every other command keeps or
clears `streaming`, and reports no decode (R187). -/
theorem CommandEffect.noFrame {i : Instr} {s u : State} (h : CommandEffect s i u)
    (hi : s.enabled = true → ∀ e level, i = .dcfEdge e level → ¬ 1500 < e.toNat) :
    NoFrame s u := by
  cases h with
  | dcfEdge e level =>
    exact edgeEffect_noFrame _ level fun ⟨he, hg⟩ => hi he e level rfl hg
  | dcfOn | dcfOff => exact noFrame_of_report nofun rfl rfl
  | countMilli | parked | preciseTick => exact noFrame_of_silent id rfl
  | setTime | readTime | readDiag | missingEntry | corrIdle | corrUnderflow | corrFires | readDcf
  | peConfig | peOccurred | peReset | readPe => exact noFrame_of_report id rfl rfl

/-! ### The fields of a frame (R181) -/

theorem toNat_fields (b : Telegram) :
    (BitVec.ofNat 7 (minuteOf b)).toNat = minuteOf b ∧
      (BitVec.ofNat 6 (hourOf b)).toNat = hourOf b ∧ (BitVec.ofNat 6 (dayOf b)).toNat = dayOf b ∧
      (BitVec.ofNat 5 (monthOf b)).toNat = monthOf b ∧
      (BitVec.ofNat 8 (yearOf b)).toNat = yearOf b := by
  have := fields_le b
  simp only [BitVec.toNat_ofNat]
  omega

theorem frameValid_iff (b : Telegram) : frameValid b = true ↔
    minuteParity b = true ∧ hourParity b = true ∧ dateParity b = true := by
  simp [frameValid, and_assoc]

theorem decodeRecord_of_valid {b : Telegram} (h : frameValid b = true) :
    decodeRecord b = .frameOk (BitVec.ofNat 7 (minuteOf b)) (BitVec.ofNat 6 (hourOf b))
      (BitVec.ofNat 6 (dayOf b)) (BitVec.ofNat 5 (monthOf b)) (BitVec.ofNat 8 (yearOf b)) :=
  if_pos h

theorem decodeRecord_of_invalid {b : Telegram} (h : ¬ frameValid b = true) :
    decodeRecord b = .frameParityErr (minuteParity b) (hourParity b) (dateParity b) :=
  if_neg h

/-! ### The obligations -/

/-- Settles O52: the first gap starts an empty frame, each pulse adds its bit, the last gap reports
them. -/
theorem wholeFrameDecodesItsSixtyPulses : Obligations.WholeFrameDecodesItsSixtyPulses := by
  intro s g₁ g₂ l₁ l₂ bs es he hs hg₁ hg₂ hp
  obtain ⟨u, hu, htook⟩ := runAll_pulses hp (tookBits_startFrame he)
  have hstart := exec_dcfEdge_of_gap_idle l₁ he hs hg₁
  have hend := exec_dcfEdge_of_gap_streaming l₂ htook.enabled htook.streaming hg₂
  refine ⟨(endFrame u).advance, ?run, rfl, rfl, htook.enabled, htook.buf, ?outs, htook.rtc,
    htook.pet, ?pc⟩
  case run =>
    exact (runAll_append ((runAll_cons_of_next _ hstart).trans hu)).trans
      (runAll_cons_of_next [] hend)
  case outs =>
    have hreport : (endFrame u).advance.outs = u.outs ++ [frameRecord u] := rfl
    rw [hreport, htook.outs, htook.frameRecord_eq]
    rfl
  case pc =>
    have hstep : (endFrame u).advance.pc = u.pc + 1 := rfl
    rw [hstep, htook.pc, List.nil_append]
    omega

/-- Settles O40: off, a bounce, and noise while idle. -/
theorem edgesWithoutEffect : Obligations.EdgesWithoutEffect := by
  intro e level s h
  refine exec_dcfEdge (u := s) fun draw => ?_
  obtain hoff | hbounce | ⟨hs, hnoise⟩ := h
  · exact edgeEffect_of_off draw level hoff
  · exact edgeEffect_of_ignored draw level (band_eq_iff.2 hbounce)
  · cases he : s.enabled with
    | false => exact edgeEffect_of_off draw level he
    | true =>
      exact (edgeEffect_of_noise draw level he (band_eq_noise hnoise)).trans (noiseEdge_of_idle hs)

/-- Settles O42: the report is decided by the cursor. -/
theorem gapWhileStreamingEndsTheFrame : Obligations.GapWhileStreamingEndsTheFrame := by
  intro e level s he hs hg
  obtain ⟨hrtc, hpet, hinputs, hdraw, hemits⟩ :=
    decoderWrite_frame (s := s) (t := (endFrame s).advance) (rs := [frameRecord s]) rfl
  refine ⟨_, exec_dcfEdge_of_gap_streaming level he hs hg, rfl, rfl, rfl, rfl, hrtc, hpet, hinputs,
    hdraw, fun hsixty => ?_, fun hother => ⟨s.cursorField, toNat_cursorField s, ?_⟩⟩
  · rwa [← frameRecord_of_sixty hsixty]
  · rwa [← frameRecord_of_ne_sixty hother]

/-- Settles O43: the bit goes to the cursor if that is below 60. -/
theorem activePulseTakesOneBit : Obligations.ActivePulseTakesOneBit := by
  intro e v s he hs hv
  refine ⟨(takeBit v s).advance,
    exec_dcfEdge_of_pulse_streaming false he hs (isPulse_of_bounds hv), rfl,
    fun k hk => getLsbD_takeBit_of_lt v s hk, hs, rfl, decoderWrite_frame rfl⟩

/-- Settles O45: the draw decides the report, for both its values. -/
theorem idlePulseReportsByTheDraw : Obligations.IdlePulseReportsByTheDraw := by
  intro e level s he hs hlow hhigh
  obtain ⟨v, hp⟩ := exists_isPulse hlow hhigh
  have heffect : ∀ d, edgeEffect d e level s =
      { s with outs := s.outs ++ (if d then [.bitFail] else []), freeIndex := s.freeIndex + 1 } :=
    fun d => calc edgeEffect d e level s = pulse d level v s := edgeEffect_of_pulse d level he hp
      _ = pulseIdle d s := pulse_of_idle d level v hs
      _ = _ := pulseIdle_eq d s
  exact ⟨heffect, Config.freeDraw s.freeIndex, _, congrArg State.done (heffect _),
    ⟨rfl, rfl, rfl, rfl, rfl⟩, rfl, ⟨rfl, rfl, rfl, rfl⟩, ⟨rfl, rfl⟩, rfl, rfl, rfl⟩

/-- Settles O47: the sums fit their fields, and each parity is read as integers. -/
theorem frameDecodeAndParity : Obligations.FrameDecodeAndParity := by
  intro b x ones pm ph pd
  have hm : minuteParity b = true ↔ pm := parityOk_iff b 28 21 7
  have hh : hourParity b = true ↔ ph := parityOk_iff b 35 29 6
  have hd : dateParity b = true ↔ pd := parityOk_iff b 58 36 22
  have hvalid : frameValid b = true ↔ pm ∧ ph ∧ pd := by rw [frameValid_iff, hm, hh, hd]
  obtain ⟨hminute, hhour, hday, hmonth, hyear⟩ := toNat_fields b
  refine ⟨fun h => ⟨_, _, _, _, _, decodeRecord_of_valid (hvalid.2 h), ?_⟩,
    fun h => ⟨_, _, _, decodeRecord_of_invalid (mt hvalid.1 h), hm, hh, hd⟩⟩
  rw [hminute, hhour, hday, hmonth, hyear]
  simp only [minuteOf, hourOf, dayOf, monthOf, yearOf, wsum, Nat.reduceAdd, x]
  omega

/-- Settles O51: a frame gap flips the mode and may decode; every other command is quiet. -/
theorem framesAlternate : Obligations.FramesAlternate := by
  intro i s t h
  by_cases hgap : s.enabled = true ∧ ∃ e level, i = .dcfEdge e level ∧ 1500 < e.toNat
  · obtain ⟨he, e, level, rfl, hg⟩ := hgap
    cases h
    have hflip := edgeEffect_streaming_of_gap (Config.freeDraw s.freeIndex) level he hg
    refine ⟨fun _ _ => ⟨he, e, level, rfl, hg⟩, fun _ _ _ _ _ => hflip, fun r hr hd => ?_⟩
    obtain ⟨hs, hc⟩ := streaming_at_sixty_of_gap_decodes he hg hr (isDecode_of_frame hd)
    refine ⟨hs, hc, ?_, e, level, rfl, hg⟩
    rw [advance_streaming, hflip, hs]
    rfl
  · obtain ⟨u, hu, rfl⟩ := effect_of_exec h
    obtain ⟨hstart, hdecode⟩ :=
      hu.noFrame fun he e level hi hg => hgap ⟨he, e, level, hi, hg⟩
    refine ⟨fun hs ht => ?_, fun e level hi hg he => absurd ⟨he, e, level, hi, hg⟩ hgap,
      fun r hr hd => ?_⟩
    · cases hs.symm.trans (hstart ht)
    · cases (hdecode r hr).symm.trans (isDecode_of_frame hd)

/-- Settles O39: an edge is in a class exactly when its duration is one of the class's. -/
theorem edgeBands : Obligations.EdgeBands :=
  fun _ => ⟨band_eq_iff, band_eq_iff, band_eq_iff, band_eq_iff, band_eq_iff⟩

/-- Settles O41: the frame starts with cursor 0 and an empty buffer. -/
theorem gapWhileIdleStartsStreaming : Obligations.GapWhileIdleStartsStreaming :=
  fun _ level _ he hs hg => ⟨_, exec_dcfEdge_of_gap_idle level he hs hg, rfl, rfl, rfl, rfl,
    ⟨rfl, rfl, rfl, rfl, rfl⟩, rfl, ⟨rfl, rfl⟩, rfl, (List.append_nil _).symm, rfl⟩

/-- Settles O44: the inactive level only reports. -/
theorem inactivePulseOnlyReports : Obligations.InactivePulseOnlyReports := by
  intro e s he hs hlow hhigh
  obtain ⟨v, hp⟩ := exists_isPulse hlow hhigh
  exact exec_dcfEdge_of_pulse_streaming true he hs hp

/-- Settles O46: the report, then the move to idle. -/
theorem noiseWhileStreamingAborts : Obligations.NoiseWhileStreamingAborts := by
  intro e level s he hs hnoise
  have hexec : exec (.dcfEdge e level) s = .next ((s.emit .bitFail).goIdle).advance :=
    exec_dcfEdge fun draw => (edgeEffect_of_noise draw level he (band_eq_noise hnoise)).trans
      (noiseEdge_of_streaming hs)
  exact ⟨_, hexec, rfl, rfl, rfl, rfl, decoderWrite_frame rfl⟩

/-- Settles O48: DCF_ON goes idle and enables. -/
theorem dcfOnEnablesAndGoesIdle : Obligations.DcfOnEnablesAndGoesIdle :=
  ⟨rfl, rfl, fun _ => ⟨_, rfl, rfl, rfl, rfl, rfl, decoderWrite_frame rfl⟩⟩

/-- Settles O49: DCF_OFF goes idle and disables. -/
theorem dcfOffDisablesAndGoesIdle : Obligations.DcfOffDisablesAndGoesIdle :=
  ⟨rfl, rfl, fun _ => ⟨_, rfl, rfl, rfl, rfl, rfl, decoderWrite_frame rfl⟩⟩

/-- Settles O50: READ_DCF only emits its record. -/
theorem readDcfReturnsTheBuffer : Obligations.ReadDcfReturnsTheBuffer :=
  ⟨rfl, rfl, fun s => ⟨_, s.cursorField, rfl, toNat_cursorField s, emit_advance_frame s _⟩⟩

end Sys2Proof.Machine

/-!
PROOFS of 60_exceptions.md: what a fault changes and that its record stays (R220, R221), and the
free order between agents (R228).

A command either emits its one fault record and nothing else, or adds no fault
(`CommandEffect.fault_or_addsNoFault`); the records of a step stand after the earlier ones
(`step_appends_outs`).
-/

namespace Sys2Proof.Machine

/-! ### Faults of a command (R221) -/

/-- `t` has the records of `s` and after them no fault. -/
def AddsNoFault (s t : State) : Prop :=
  ∃ rs, t.outs = s.outs ++ rs ∧ ∀ r ∈ rs, r.kind ≠ .fault

theorem addsNoFault_of_none {s t : State} (h : t.outs = s.outs) : AddsNoFault s t :=
  ⟨[], by simpa using h, by simp⟩

theorem addsNoFault_of_one {s t : State} {r : Record} (h : t.outs = s.outs ++ [r])
    (hr : r.kind ≠ .fault) : AddsNoFault s t :=
  ⟨[r], h, by simpa using hr⟩

theorem Notifies.addsNoFault {s t : State} (h : Notifies s t) : AddsNoFault s t := by
  obtain hnone | ⟨r, hone, hr⟩ := h
  · exact addsNoFault_of_none hnone
  · exact addsNoFault_of_one hone (by simp [hr])

theorem AddsNoFault.outs_ne {s t : State} (h : AddsNoFault s t) (c : FaultCause) :
    t.outs ≠ s.outs ++ [.fault c] := by
  obtain ⟨rs, hrs, hquiet⟩ := h
  intro hfault
  obtain rfl : rs = [.fault c] := List.append_cancel_left (hrs.symm.trans hfault)
  exact hquiet _ (List.mem_singleton_self _) rfl

/-- A command that faults emits the fault record and changes nothing else. -/
theorem CommandEffect.fault_or_addsNoFault {i : Instr} {s u : State} (h : CommandEffect s i u) :
    (∃ c, u = s.emit (.fault c)) ∨ AddsNoFault s u := by
  cases h with
  | missingEntry | corrUnderflow => exact .inl ⟨_, rfl⟩
  | countMilli | parked | preciseTick => exact .inr (addsNoFault_of_none rfl)
  | dcfEdge e level => exact .inr (edgeEffect_notifies _ e level s).addsNoFault
  | setTime | readTime | readDiag | corrIdle | corrFires | dcfOn | dcfOff | readDcf | peConfig
  | peOccurred | peReset | readPe => exact .inr (addsNoFault_of_one rfl (by simp [Record.kind]))

theorem exec_eq_raise_of_fault {i : Instr} {s t : State} {c : FaultCause}
    (h : exec i s = .next t) (hc : t.outs = s.outs ++ [.fault c]) : exec i s = s.raise c := by
  obtain ⟨u, hu, rfl⟩ := effect_of_exec h
  obtain ⟨c', rfl⟩ | hquiet := hu.fault_or_addsNoFault
  · have hcc : [Record.fault c'] = [.fault c] := List.append_cancel_left hc
    cases hcc
    exact h
  · exact absurd hc (hquiet.outs_ne c)

/-- A step that emits a fault record raises it in the state that has consumed the event. -/
theorem step_eq_raise_of_fault {s t : State} {c : FaultCause} (hr : s.resetAsserted = false)
    (h : step s = .next t) (hc : t.outs = s.outs ++ [.fault c]) :
    ∃ a w, s.nextEvent = some (a, w) ∧ step s = (s.takeEvent a).raise c := by
  obtain ⟨hreset, -⟩ | ⟨-, -, hs⟩ | ⟨a, w, -, hn, ⟨e, -, hs⟩ | ⟨i, -, hs⟩⟩ := oneStep_cases s
  · simp [hr] at hreset
  · cases h.symm.trans hs
  · cases h.symm.trans hs
    have hcc : [Record.fault (.illegal w)] = [.fault c] := List.append_cancel_left hc
    cases hcc
    exact ⟨a, w, hn, hs⟩
  · exact ⟨a, w, hn, hs.trans (exec_eq_raise_of_fault (hs.symm.trans h) hc)⟩

/-! ### Records stay (R221) -/

/-- No step takes a record back, the reset input included. -/
theorem step_appends_outs {s t : State} (h : step s = .next t) : ∃ rs, t.outs = s.outs ++ rs := by
  obtain ⟨-, hs⟩ | ⟨-, -, hs⟩ | ⟨a, w, -, -, ⟨e, -, hs⟩ | ⟨i, -, hs⟩⟩ := oneStep_cases s
  · cases h.symm.trans hs
    exact ⟨[], (List.append_nil _).symm⟩
  · cases h.symm.trans hs
  · cases h.symm.trans hs
    exact ⟨_, rfl⟩
  · obtain ⟨_, ⟨houts, -⟩, -⟩ := exec_inContext (hs.symm.trans h)
    exact ⟨_, houts⟩

theorem faultFree_eq_false_of_append {s t : State} {rs : List Record}
    (h : t.outs = s.outs ++ rs) (hs : s.faultFree = false) : t.faultFree = false := by
  rw [State.faultFree, h, List.all_append, Bool.and_eq_false_iff]
  exact .inl hs

/-! ### The obligations -/

/-- Settles O10: whom some choice picks is a ready agent, and each ready agent has its choice. -/
theorem arbiterCanPickAnyReadyAgent : Obligations.ArbiterCanPickAnyReadyAgent :=
  fun _ _ => ⟨⟨fun h => arbitrate_complete (mem_ready.2 h),
    fun ⟨_, h⟩ => mem_ready.1 (mem_of_arbitrate h)⟩, rfl⟩

/-- Settles O55: the step is the `raise` of its fault, and the records of a step stay. -/
theorem faultsChangeNothingElse : Obligations.FaultsChangeNothingElse := by
  refine ⟨fun s t c hr h hc => ?effect, fun s t h hs => ?kept⟩
  case effect =>
    obtain ⟨a, w, hn, hraise⟩ := step_eq_raise_of_fault hr h hc
    cases h.symm.trans hraise
    exact ⟨a, w, hn, rfl⟩
  case kept =>
    obtain ⟨rs, hrs⟩ := step_appends_outs h
    exact faultFree_eq_false_of_append hrs hs

/-- Settles O27: fast first, the fast tick is counted in the second that ends; precise first, it is
the first of the new second. -/
theorem simultaneousTicksEndInTwoStates : Obligations.SimultaneousTicksEndInTwoStates := by
  intro s h1 h2
  obtain ⟨-, -, hprecise⟩ := preciseTickEndsTheSecond
  refine ⟨?fastFirst, ?preciseFirst⟩
  case fastFirst =>
    obtain ⟨f, hf, -, -, hf2, hfs, -⟩ := exec_fastTick_parks (s := s) (by simp [h1])
    obtain ⟨t, ht, hdrift, hs, hmillis, ht1, ht2, -⟩ := hprecise f
    have hticks : f.sync2.toNat = 999 := by rw [hf2, h2]; rfl
    refine ⟨t, (runAll_cons_of_next _ hf).trans (runAll_cons_of_next _ ht), ?_, ht1, ht2, ?_⟩
    · rw [hmillis, hs, hfs]
    · rw [hdrift, hticks]
      rfl
  case preciseFirst =>
    obtain ⟨p, hp, hdrift, hs, hmillis, hp1, hp2, -⟩ := hprecise s
    obtain ⟨t, ht, htmillis, ht1, ht2, -, htdrift, -⟩ :=
      exec_fastTick_parks (s := p) (by simp [hp1])
    rw [hp1] at htmillis ht1
    rw [hp2] at ht2
    refine ⟨t, (runAll_cons_of_next _ hp).trans (runAll_cons_of_next _ ht), ?_,
      BitVec.eq_of_toNat_eq ht1, BitVec.eq_of_toNat_eq ht2, ?_⟩
    · have hplace : min 1 (999 - (0 : Word16).toNat) = 1 := rfl
      rw [htmillis, hplace, BitVec.toNat_add, BitVec.toNat_ofNat, hmillis, hs]
      omega
    · rw [htdrift, hdrift, h2]
      rfl

end Sys2Proof.Machine

/-!
PROOFS of 70_reset_and_hazards.md: reset (R250), the boot order (R251), and the clock while no
PRECISE_TICK comes (R255).

A run of PE_CONFIGs keeps the clock, so every entry it configures is armed from the time the run
began at (`runAll_peConfig_arms`).  Of the commands that do not write the seconds none moves time
backward, and the clock relation bounds `millis` (`runAll_clockStands`).
-/

namespace Sys2Proof.Machine

/-! ### Reset (R250) -/

theorem step_of_resetAsserted {s : State} (h : s.resetAsserted = true) :
    step s = .next s.applyReset :=
  if_pos h

@[simp] theorem nPE_applyReset (s : State) : s.applyReset.nPE = s.nPE := List.length_replicate

theorem eq_zero_of_mem_applyReset {s : State} {p : PeriodicEvent} (h : p ∈ s.applyReset.pe) :
    p = PeriodicEvent.zero :=
  List.eq_of_mem_replicate h

@[simp] theorem queue_pendingEmpty (a : Agent) : Pending.empty.queue a = [] := by
  cases a <;> rfl

/-! ### Configuring entries (R141, R251) -/

/-- The entries of the indices `ks`, where they exist, are armed from the present time. -/
def ArmedNow (ks : List Byte) (s : State) : Prop :=
  ∀ k ∈ ks, ∀ q, s.entry? k = some q → q.last = s.millis ∧ q.count = 0

theorem entry?_of_samePet {s t : State} (h : SamePet s t) (k : Byte) : t.entry? k = s.entry? k :=
  congrArg (·[k.toNat]?) h

theorem ArmedNow.of_same {ks : List Byte} {s t : State} (hrtc : SameRtc s t) (hpet : SamePet s t)
    (h : ArmedNow ks s) : ArmedNow ks t := by
  intro k hk q hq
  rw [hrtc.1]
  exact h k hk q ((entry?_of_samePet hpet k).symm.trans hq)

/-- PE_CONFIG keeps the clock and the other entries; a missing entry has no settings to speak of. -/
theorem exec_peConfig_configures (k : Byte) (d : Word32) (m : Byte) (s : State) :
    ∃ t, exec (.peConfig k d m) s = .next t ∧ SameRtc s t ∧ (∀ j, j ≠ k → t.entry? j = s.entry? j) ∧
      ∀ q, t.entry? k = some q → q.delay = d ∧ q.max = m ∧ q.last = s.millis ∧ q.count = 0 := by
  cases hk : s.entry? k with
  | none =>
    obtain ⟨hrtc, -⟩ := emit_advance_frame s (.fault (.illegal (encode (.peConfig k d m))))
    refine ⟨_, exec_of_missing_entry rfl hk, hrtc, fun _ _ => rfl, fun q hq => ?_⟩
    cases hk.symm.trans hq
  | some p =>
    obtain ⟨-, -, hconfig⟩ := peConfigCreatesAnArmedEntry k d m
    obtain ⟨t, q, ht, hq, hdelay, hmax, hlast, hcount, -, ⟨-, hothers⟩, hrtc, -⟩ :=
      hconfig s (entry?_eq_some_lt hk)
    refine ⟨t, ht, hrtc, hothers, fun q' hq' => ?_⟩
    cases hq.symm.trans hq'
    exact ⟨hdelay, hmax, hlast, hcount⟩

/-- An entry more is armed from the present time, and those armed before still are. -/
theorem exec_peConfig_arms {ks : List Byte} {s : State} (k : Byte) (d : Word32) (m : Byte)
    (h : ArmedNow ks s) :
    ∃ t, exec (.peConfig k d m) s = .next t ∧ SameRtc s t ∧ ArmedNow (k :: ks) t ∧
      ∀ q, t.entry? k = some q → q.delay = d ∧ q.max = m := by
  obtain ⟨t, ht, hrtc, hothers, hself⟩ := exec_peConfig_configures k d m s
  refine ⟨t, ht, hrtc, fun j hj q hq => ?armed, fun q hq => ?settings⟩
  case armed =>
    rw [hrtc.1]
    by_cases hjk : j = k
    · subst hjk
      obtain ⟨-, -, harmed⟩ := hself q hq
      exact harmed
    · exact h j (List.mem_of_ne_of_mem hjk hj) q ((hothers j hjk).symm.trans hq)
  case settings =>
    obtain ⟨hdelay, hmax, -⟩ := hself q hq
    exact ⟨hdelay, hmax⟩

/-- The clock stands during a run of PE_CONFIGs, so all of them arm from one time. -/
theorem runAll_peConfig_arms (xs : List (Byte × Word32 × Byte)) {ks : List Byte} {s : State}
    (h : ArmedNow ks s) :
    ∃ t, runAll (xs.map fun x => .peConfig x.1 x.2.1 x.2.2) s = .next t ∧ SameRtc s t ∧
      ArmedNow (xs.map (·.1) ++ ks) t := by
  induction xs generalizing ks s with
  | nil => exact ⟨s, rfl, ⟨rfl, rfl, rfl, rfl, rfl⟩, h⟩
  | cons x xs ih =>
    obtain ⟨t, ht, hst, harmed, -⟩ := exec_peConfig_arms x.1 x.2.1 x.2.2 h
    obtain ⟨u, hu, htu, harmed'⟩ := ih harmed
    refine ⟨u, (runAll_cons_of_next _ ht).trans hu, hst.trans htu, fun k hk => harmed' k ?_⟩
    simpa [or_left_comm] using hk

/-- The last step of the boot order touches neither the clock nor the entries (R251, R184). -/
theorem runAll_radio (radio : Bool) (s : State) :
    ∃ t, runAll (if radio then [.dcfOn] else []) s = .next t ∧ SameRtc s t ∧ SamePet s t ∧
      (radio = true → t.enabled = true) := by
  cases radio with
  | false => exact ⟨s, rfl, ⟨rfl, rfl, rfl, rfl, rfl⟩, rfl, nofun⟩
  | true => exact ⟨_, rfl, ⟨rfl, rfl, rfl, rfl, rfl⟩, rfl, fun _ => rfl⟩

/-! ### The clock without PRECISE_TICK (R255) -/

/-- Time went no way but forward within one and the same second. -/
def ClockStands (s t : State) : Prop :=
  t.seconds = s.seconds ∧ s.millis.toNat ≤ t.millis.toNat ∧ ClockInv t

theorem ClockStands.trans {s t u : State} (hst : ClockStands s t) (htu : ClockStands t u) :
    ClockStands s u := by
  obtain ⟨hseconds, hmillis, -⟩ := hst
  obtain ⟨hseconds', hmillis', hclock⟩ := htu
  exact ⟨hseconds'.trans hseconds, hmillis.trans hmillis', hclock⟩

theorem exec_clockStands {i : Instr} {s t : State} (hs : ClockInv s)
    (hi : i.opcode ∉ [.preciseTick, .setTime, .corrCheck]) (h : exec i s = .next t) :
    ClockStands s t := by
  have hne : ∀ c : Instr, c.opcode ∈ [.preciseTick, .setTime, .corrCheck] → i ≠ c := by
    rintro c hc rfl
    exact hi hc
  have hforward := timeMovesBackwardOnlyBySetOrCorrection i s t hs h
    (fun v => hne (.setTime v) (by simp [Instr.opcode]))
    (fun k => hne (.corrCheck k) (by simp [Instr.opcode]))
    (fun htick => absurd htick (hne .preciseTick (by simp [Instr.opcode])))
  obtain ⟨u, hu, rfl⟩ := effect_of_exec h
  obtain ⟨-, hseconds, -⟩ := hu.rtcWrites
  exact ⟨not_not.1 (mt hseconds hi), hforward.2, hu.clockInv hs⟩

theorem runAll_clockStands {cs : List Instr} {s : State} (hs : ClockInv s)
    (hcs : ∀ c ∈ cs, c.opcode ∉ [.preciseTick, .setTime, .corrCheck]) :
    ∃ t, runAll cs s = .next t ∧ ClockStands s t := by
  induction cs generalizing s with
  | nil => exact ⟨s, rfl, rfl, le_rfl, hs⟩
  | cons c cs ih =>
    obtain ⟨hc, hrest⟩ := List.forall_mem_cons.1 hcs
    obtain ⟨u, hu⟩ := exec_eq_done c s
    have hstands := exec_clockStands hs hc hu
    have ⟨_, _, hclock⟩ := hstands
    obtain ⟨t, ht, hstands'⟩ := ih hclock hrest
    exact ⟨t, (runAll_cons_of_next cs hu).trans ht, hstands.trans hstands'⟩

/-! ### The obligations -/

/-- Settles O26: the clock stands, its relation bounds `millis`, and `sync2` counts the ticks. -/
theorem clockStandsWithoutPreciseTicks : Obligations.ClockStandsWithoutPreciseTicks := by
  intro cs s hs hcs
  obtain ⟨t, ht, hseconds, hmillis, hpark, -, hhigh⟩ :=
    runAll_clockStands (cs := cs) hs fun c hc => by simpa using hcs c hc
  obtain ⟨u, hu, hsync2⟩ := runAll_sync2 s fun hmem => (hcs _ hmem).1 rfl
  cases ht.symm.trans hu
  refine ⟨t, ht, hseconds, hmillis, ?_, ?_⟩
  · rw [hseconds] at hhigh
    omega
  · rw [hsync2, BitVec.toNat_add, BitVec.toNat_ofNat, Nat.add_mod_mod]

/-- Settles O58: SET_TIME anchors the clock, the PE_CONFIGs arm from it, and neither they nor DCF_ON
move it. -/
theorem bootArmsEntriesFromTheSetTime : Obligations.BootArmsEntriesFromTheSetTime := by
  intro v polled corr radio s
  obtain ⟨-, -, hset⟩ := setTimeOverwritesBothCounters v
  obtain ⟨a, ha, hseconds, hmillis, -⟩ := hset s
  obtain ⟨b, hb, hab, hpolled⟩ := runAll_peConfig_arms polled (ks := []) (s := a) nofun
  obtain ⟨c, hc, hbc, harmed, hcorr⟩ :=
    exec_peConfig_arms corr Config.pCorrDelayMs Config.pCorrMax hpolled
  obtain ⟨t, ht, hct, hpet, hradio⟩ := runAll_radio radio c
  have hrun : runAll (bootSequence (some v) polled corr radio) s = .next t := by
    have hab' := (runAll_cons_of_next _ ha).trans hb
    exact (runAll_append ((runAll_append hab').trans (runAll_cons_of_next [] hc))).trans ht
  obtain ⟨hmillis', hseconds', -⟩ : SameRtc a t := (hab.trans hbc).trans hct
  have htime : t.millis.toNat = v.toNat * 1000 := by rw [hmillis', hmillis]
  refine ⟨t, hrun, hseconds'.trans hseconds, htime, hradio, fun k hk q hq => ?armed,
    fun q hq => ?correction⟩
  case armed =>
    obtain ⟨hlast, hcount⟩ := harmed.of_same hct hpet k (by simpa using hk) q hq
    exact ⟨hlast ▸ htime, hcount⟩
  case correction =>
    obtain ⟨hdelay, hmax⟩ := hcorr q ((entry?_of_samePet hpet corr).symm.trans hq)
    exact ⟨hmax, hdelay⟩

/-- Settles O14: the step is the reset, whose entries are all zero. -/
theorem resetClearsEverything : Obligations.ResetClearsEverything := by
  refine ⟨fun s hs => ⟨_, step_of_resetAsserted hs, rfl, rfl, rfl, rfl, rfl, nPE_applyReset s,
    fun p hp => ?entries, rfl, rfl, rfl, rfl, queue_pendingEmpty, rfl, rfl⟩,
    rfl, rfl, rfl, rfl, rfl, rfl, rfl, rfl, rfl, rfl, rfl, rfl⟩
  case entries =>
    rw [eq_zero_of_mem_applyReset hp]
    exact ⟨rfl, rfl, rfl, rfl⟩

/-- Settles O59: 8 is one of the legal numbers of entries. -/
theorem invariantHoldsAtReset : Obligations.InvariantHoldsAtReset :=
  ⟨fun _ low high => inv_resetWith low high, inv_resetWith (by decide) (by decide)⟩

end Sys2Proof.Machine
